-- ==== Sys2Proof/Word.lean ====
section
/-! DEFINITION. The two word types of PCPI: bytes of programs and buffers, and the u32 of R10 (00_scope.md). -/

namespace Sys2Proof

/-- A byte: 8 bits, bit 7 the most significant (R10). -/
abbrev Byte := BitVec 8

/-- A `u32` (R10): the value of S_CONST and of a timing field. -/
abbrev Word := BitVec 32

end Sys2Proof
end

