-- ==== Sys2Proof/Config.lean ====
section
/-! DEFINITION. What is fixed for an instance (the configuration record CFG of R36 and R37), the parameters the source
leaves open (R8), and the free values: the opaque constants behind `draw()` (R15). -/

namespace Sys2Proof

/-- The bus of a byte stream (R35), in the order a triple runs them (R351). -/
inductive Bus where
  | i2c
  | mipi
  | spi
deriving DecidableEq, Repr

/-- The three named programs of an instance (R38, R350). -/
inductive ProgName where
  | init
  | enable
  | disable
deriving DecidableEq, Repr

/-- One program triple: a byte stream for each bus (R38, R350). A stream may be empty. -/
structure Streams where
  i2c : List Byte
  mipi : List Byte
  spi : List Byte
deriving DecidableEq, Repr

/-- `CFG.programs`: the three triples (R38). -/
structure Programs where
  init : Streams
  enable : Streams
  disable : Streams
deriving DecidableEq, Repr

/-- `CFG.timing` (R37). Each geometry field is a `u32` (D9); `clock` and `flags` are read by no rule. -/
structure Timing where
  hdisplay : Word
  hsyncStart : Word
  hsyncEnd : Word
  htotal : Word
  vdisplay : Word
  vsyncStart : Word
  vsyncEnd : Word
  vtotal : Word
  clock : Nat
  flags : Nat
deriving DecidableEq, Repr

/-- `CFG.delay`: the lifecycle waits in milliseconds, read by the host only (R36, R360). -/
structure Delays where
  powerUp : Nat
  prepare : Nat
  enable : Nat
  disable : Nat
  unprepare : Nat
  powerDown : Nat
deriving DecidableEq, Repr

/-- The configuration record CFG (R36). The last four fields and the two clock limits are opaque to the block
(DESIGN CHOICE: natural numbers, log 22). -/
structure Cfg where
  hasI2c : Bool
  hasMipi : Bool
  hasSpi : Bool
  i2cAddr : BitVec 7
  i2cMaxHz : Nat
  spiMaxHz : Nat
  spi9bit : Bool
  dsiLanes : Nat
  programs : Programs
  timing : Timing
  delays : Delays
  dsiFormat : Nat
  handles : Nat
  physicalSize : Nat
  busFormat : Nat
deriving DecidableEq, Repr

/-- `OPCODE_MAP` (R103, D1): the 7-bit value of every named opcode. The eight reads are one field, their first
value, because they are eight consecutive values in any legal map. -/
structure OpcodeMap where
  dcsLength : BitVec 7
  dcsBuf : BitVec 7
  delay : BitVec 7
  mrps : BitVec 7
  dcsRead1 : BitVec 7
  if1Lane : BitVec 7
  if2Lanes : BitVec 7
  if3Lanes : BitVec 7
  if4Lanes : BitVec 7
  constField : BitVec 7
  hsync : BitVec 7
  hbp : BitVec 7
  hactive : BitVec 7
  hfp : BitVec 7
  vsync : BitVec 7
  vbp : BitVec 7
  vactive : BitVec 7
  vfp : BitVec 7
deriving DecidableEq, Repr

/-- The parameters of R8 and 93_implementation_defined.md §6, with the spec's defaults where it gives one. The two
OPEN ones (`spiReadDummyBits`, `progLenMax`) have no default in the spec (log 2). -/
structure Params where
  opcodes : OpcodeMap
  maxDataPayload : Nat := 64
  dcsBufMax : Nat := 24
  spiReadDummyBits : Nat
  spiByteReadFill : Byte := 0xFF
  progLenMax : Nat
  tripleStopOnMismatch : Bool := true
deriving DecidableEq, Repr

/-- `draw()` of one bit (R15): an unwritten command-buffer bit (R43), a field bit from source bit 32 on (R323). No
body, so nothing can be proved of its value. DESIGN CHOICE of form: log 8. -/
opaque Config.freeBit : Nat → Bool

/-- `draw()` of one byte (R15): the reply bytes of a MIPI read whose retry failed (R175). -/
opaque Config.freeByte : Nat → BitVec 8

/-- `draw()` of one `u32` (R15): a timing difference that would be negative (R322). -/
opaque Config.freeWord : Nat → BitVec 32

end Sys2Proof
end

