-- ==== Sys2Proof/Syntax.lean ====
section
/-! DEFINITION. The instructions: one constructor for each row of spec/opcode_table.json, carrying the row's operands
(R105, R108, R109). -/

namespace Sys2Proof

/-- A step of a program, decoded (R109). `p` is a payload (its length is N or L), `l` the output length of S_DCS_BUF, `c0`
and `c1` command bytes, `e` the expected bytes, `ds`, `dl`, `ss` the bit ranges of a substitution. `x` is the generic flag
of a step that ignores it (R102, log 17). -/
inductive Instr where
  /-- INLINE (R233). -/
  | inlineDcs (p : List Byte)
  /-- INLINE.G (R234). -/
  | inlineGeneric (p : List Byte)
  /-- S_DCS_LENGTH (R235). -/
  | dcsLength (p : List Byte)
  /-- S_DCS_LENGTH.G (R235). -/
  | dcsLengthG (p : List Byte)
  /-- S_DCS_BUF (R240). -/
  | dcsBuf (l : Byte)
  /-- S_DCS_BUF.G (R240). -/
  | dcsBufG (l : Byte)
  /-- S_DELAY (R261). -/
  | delay (x : Bool) (ms : Byte)
  /-- S_MRPS (R263). -/
  | mrps (x : Bool) (n : Byte)
  /-- S_DCS_READ1 (R294). -/
  | dcsRead1 (c0 : Byte) (e : List Byte)
  /-- S_DCS_READ1.G (R294). -/
  | dcsRead1G (c0 c1 : Byte) (e : List Byte)
  /-- S_DCS_READ2 (R294). -/
  | dcsRead2 (c0 : Byte) (e : List Byte)
  /-- S_DCS_READ2.G (R294). -/
  | dcsRead2G (c0 c1 : Byte) (e : List Byte)
  /-- S_DCS_READ3 (R294). -/
  | dcsRead3 (c0 : Byte) (e : List Byte)
  /-- S_DCS_READ3.G (R294). -/
  | dcsRead3G (c0 c1 : Byte) (e : List Byte)
  /-- S_DCS_READ4 (R294). -/
  | dcsRead4 (c0 : Byte) (e : List Byte)
  /-- S_DCS_READ4.G (R294). -/
  | dcsRead4G (c0 c1 : Byte) (e : List Byte)
  /-- S_DCS_READ5 (R294). -/
  | dcsRead5 (c0 : Byte) (e : List Byte)
  /-- S_DCS_READ5.G (R294). -/
  | dcsRead5G (c0 c1 : Byte) (e : List Byte)
  /-- S_DCS_READ6 (R294). -/
  | dcsRead6 (c0 : Byte) (e : List Byte)
  /-- S_DCS_READ6.G (R294). -/
  | dcsRead6G (c0 c1 : Byte) (e : List Byte)
  /-- S_DCS_READ7 (R294). -/
  | dcsRead7 (c0 : Byte) (e : List Byte)
  /-- S_DCS_READ7.G (R294). -/
  | dcsRead7G (c0 c1 : Byte) (e : List Byte)
  /-- S_DCS_READ8 (R294). -/
  | dcsRead8 (c0 : Byte) (e : List Byte)
  /-- S_DCS_READ8.G (R294). -/
  | dcsRead8G (c0 c1 : Byte) (e : List Byte)
  /-- S_IF_1_LANE (R266). -/
  | if1Lane (x : Bool)
  /-- S_IF_2_LANES (R266). -/
  | if2Lanes (x : Bool)
  /-- S_IF_3_LANES (R266). -/
  | if3Lanes (x : Bool)
  /-- S_IF_4_LANES (R266). -/
  | if4Lanes (x : Bool)
  /-- S_CONST (R327). -/
  | constField (x : Bool) (ds dl : Byte) (val : Word)
  /-- S_HSYNC (R329). -/
  | hsync (x : Bool) (ds dl ss : Byte)
  /-- S_HBP (R330). -/
  | hbp (x : Bool) (ds dl ss : Byte)
  /-- S_HACTIVE (R331). -/
  | hactive (x : Bool) (ds dl ss : Byte)
  /-- S_HFP (R332). -/
  | hfp (x : Bool) (ds dl ss : Byte)
  /-- S_VSYNC (R333). -/
  | vsync (x : Bool) (ds dl ss : Byte)
  /-- S_VBP (R334). -/
  | vbp (x : Bool) (ds dl ss : Byte)
  /-- S_VACTIVE (R335). -/
  | vactive (x : Bool) (ds dl ss : Byte)
  /-- S_VFP (R336). -/
  | vfp (x : Bool) (ds dl ss : Byte)
deriving DecidableEq, Repr

end Sys2Proof
end

