-- ==== Sys2Proof/WellFormed.lean ====
section
/-! DEFINITION. Which terms of `Instr` are steps of a program: the operand lengths their formats allow (R105, R108). -/

namespace Sys2Proof

/-- An inline payload has N bytes, `1 ≤ N ≤ 0x3B` (R103, R108). -/
def Instr.inlineOk (p : List Byte) : Bool := 1 ≤ p.length && p.length ≤ 0x3B

/-- A length-prefixed payload has L bytes, one length byte (R108). L = 0 is an encoding (R236). -/
def Instr.lengthOk (p : List Byte) : Bool := p.length ≤ 255

/-- A read of width k carries k expected bytes (R105, R108). -/
def Instr.expectOk (k : Nat) (e : List Byte) : Bool := e.length == k

/-- The checks of every constructor (R105, R108). -/
def Instr.wellFormed : Instr → Bool
  | .inlineDcs p => Instr.inlineOk p
  | .inlineGeneric p => Instr.inlineOk p
  | .dcsLength p => Instr.lengthOk p
  | .dcsLengthG p => Instr.lengthOk p
  | .dcsBuf _ => true
  | .dcsBufG _ => true
  | .delay _ _ => true
  | .mrps _ _ => true
  | .dcsRead1 _ e => Instr.expectOk 1 e
  | .dcsRead1G _ _ e => Instr.expectOk 1 e
  | .dcsRead2 _ e => Instr.expectOk 2 e
  | .dcsRead2G _ _ e => Instr.expectOk 2 e
  | .dcsRead3 _ e => Instr.expectOk 3 e
  | .dcsRead3G _ _ e => Instr.expectOk 3 e
  | .dcsRead4 _ e => Instr.expectOk 4 e
  | .dcsRead4G _ _ e => Instr.expectOk 4 e
  | .dcsRead5 _ e => Instr.expectOk 5 e
  | .dcsRead5G _ _ e => Instr.expectOk 5 e
  | .dcsRead6 _ e => Instr.expectOk 6 e
  | .dcsRead6G _ _ e => Instr.expectOk 6 e
  | .dcsRead7 _ e => Instr.expectOk 7 e
  | .dcsRead7G _ _ e => Instr.expectOk 7 e
  | .dcsRead8 _ e => Instr.expectOk 8 e
  | .dcsRead8G _ _ e => Instr.expectOk 8 e
  | .if1Lane _ => true
  | .if2Lanes _ => true
  | .if3Lanes _ => true
  | .if4Lanes _ => true
  | .constField _ _ _ _ => true
  | .hsync _ _ _ _ => true
  | .hbp _ _ _ _ => true
  | .hactive _ _ _ _ => true
  | .hfp _ _ _ _ => true
  | .vsync _ _ _ _ => true
  | .vbp _ _ _ _ => true
  | .vactive _ _ _ _ => true
  | .vfp _ _ _ _ => true

end Sys2Proof
end

