-- ==== Sys2Proof/Decode.lean ====
section
/-! DEFINITION. The decoder, total on any bytes, and the encoder written from the same tables (30_encoding.md): the
opcode byte R101, the opcode map R103, the formats R105, the operands R108. Both take `OPCODE_MAP` as an argument (R8,
D1); `decode` and `encode` use the spec's default map. -/

namespace Sys2Proof

/-- The opcodes that have a name in `OPCODE_MAP` (R103); INLINE has the range `0x01..0x3B` instead. -/
inductive OpName where
  | dcsLength
  | dcsBuf
  | delay
  | mrps
  | dcsRead1
  | dcsRead2
  | dcsRead3
  | dcsRead4
  | dcsRead5
  | dcsRead6
  | dcsRead7
  | dcsRead8
  | if1Lane
  | if2Lanes
  | if3Lanes
  | if4Lanes
  | constField
  | hsync
  | hbp
  | hactive
  | hfp
  | vsync
  | vbp
  | vactive
  | vfp
deriving DecidableEq, Repr

/-- Every named opcode, in the order of R103. -/
def OpName.all : List OpName :=
  [.dcsLength, .dcsBuf, .delay, .mrps, .dcsRead1, .dcsRead2, .dcsRead3, .dcsRead4, .dcsRead5, .dcsRead6, .dcsRead7, .dcsRead8,
   .if1Lane, .if2Lanes, .if3Lanes, .if4Lanes, .constField, .hsync, .hbp, .hactive, .hfp, .vsync, .vbp, .vactive, .vfp]

/-- The default `OPCODE_MAP` (R103). These numbers are the spec's own (D1), not the source's (log 1). -/
def OpcodeMap.default : OpcodeMap :=
  { dcsLength := 0x3C, dcsBuf := 0x3D, delay := 0x3E, mrps := 0x3F, dcsRead1 := 0x40,
    if1Lane := 0x48, if2Lanes := 0x49, if3Lanes := 0x4A, if4Lanes := 0x4B, constField := 0x4C,
    hsync := 0x4D, hbp := 0x4E, hactive := 0x4F, hfp := 0x50,
    vsync := 0x51, vbp := 0x52, vactive := 0x53, vfp := 0x54 }

/-- The value a map gives a name. The reads are consecutive: `k = op7 - S_DCS_READ1 + 1` (R103, R290). -/
def OpcodeMap.code (m : OpcodeMap) : OpName → BitVec 7
  | .dcsLength => m.dcsLength
  | .dcsBuf => m.dcsBuf
  | .delay => m.delay
  | .mrps => m.mrps
  | .dcsRead1 => m.dcsRead1
  | .dcsRead2 => m.dcsRead1 + 1
  | .dcsRead3 => m.dcsRead1 + 2
  | .dcsRead4 => m.dcsRead1 + 3
  | .dcsRead5 => m.dcsRead1 + 4
  | .dcsRead6 => m.dcsRead1 + 5
  | .dcsRead7 => m.dcsRead1 + 6
  | .dcsRead8 => m.dcsRead1 + 7
  | .if1Lane => m.if1Lane
  | .if2Lanes => m.if2Lanes
  | .if3Lanes => m.if3Lanes
  | .if4Lanes => m.if4Lanes
  | .constField => m.constField
  | .hsync => m.hsync
  | .hbp => m.hbp
  | .hactive => m.hactive
  | .hfp => m.hfp
  | .vsync => m.vsync
  | .vbp => m.vbp
  | .vactive => m.vactive
  | .vfp => m.vfp

/-- Whether a 7-bit opcode is an INLINE length (R103: `0x01..0x3B`, fixed by the source). -/
def isInline (op7 : BitVec 7) : Bool := 1 ≤ op7.toNat && op7.toNat ≤ 0x3B

/-- The constraints a substitute map must keep (R103): no two names share a value, none lies in the inline range, and the
eight reads do not wrap. -/
def OpcodeMap.legal (m : OpcodeMap) : Bool :=
  decide ((OpName.all.map m.code).Nodup) && OpName.all.all (fun o => !isInline (m.code o))
    && m.dcsRead1.toNat + 7 ≤ 0x7F

/-- The name a map gives a value, or none: an unknown opcode (R104). -/
def OpcodeMap.classify (m : OpcodeMap) (op7 : BitVec 7) : Option OpName :=
  OpName.all.find? (fun o => m.code o == op7)

/-- The generic flag, bit 7 of the opcode byte (R101). -/
def opGeneric (op : Byte) : Bool := op.getLsbD 7

/-- The opcode, bits 6:0 of the opcode byte (R101, C2). -/
def opCode (op : Byte) : BitVec 7 := op.extractLsb' 0 7

/-- The opcode byte of a generic flag and an opcode (R101). -/
def opByte (g : Bool) (op7 : BitVec 7) : Byte := BitVec.ofBool g ++ op7

/-- Four little-endian bytes as a `u32` (R72). -/
def le32 (v0 v1 v2 v3 : Byte) : Word := v3 ++ v2 ++ v1 ++ v0

/-- Byte `i` of a `u32`, little-endian (R72). -/
def wordByte (v : Word) (i : Nat) : Byte := v.extractLsb' (8 * i) 8

/-- What decoding gives: a step and the bytes after it, or one of the two decode failures of R109. -/
inductive Decoded where
  /-- A step, and the bytes that follow it. -/
  | ok (i : Instr) (rest : List Byte)
  /-- The opcode is not in the map (R104). -/
  | unknownOpcode
  /-- A `fetch()` of the step ran past the end (R106). -/
  | truncated
deriving DecidableEq, Repr

/-- The first `n` bytes and the rest, or none when fewer than `n` are left: `n` times `fetch()` (R12). -/
def splitBytes : Nat → List Byte → Option (List Byte × List Byte)
  | 0, r => some ([], r)
  | _ + 1, [] => none
  | n + 1, b :: r =>
    match splitBytes n r with
    | some (p, q) => some (b :: p, q)
    | none => none

/-- Takes the `n` bytes a format asks for, or is truncated (R106). -/
def takeBody (n : Nat) (r : List Byte) (f : List Byte → Instr) : Decoded :=
  match splitBytes n r with
  | some (p, q) => .ok (f p) q
  | none => .truncated

/-- Format FL: the length byte, then that many bytes (R105). -/
def decodeLength (f : List Byte → Instr) : List Byte → Decoded
  | l :: r => takeBody l.toNat r f
  | [] => .truncated

/-- Format FB: one argument byte (R105). -/
def decodeArg (f : Byte → Instr) : List Byte → Decoded
  | b :: r => .ok (f b) r
  | [] => .truncated

/-- Format FR: one command byte when `g = 0`, two when `g = 1`, then the k expected bytes (R105, R291). -/
def decodeRead (k : Nat) (g : Bool) (dcs : Byte → List Byte → Instr) (gen : Byte → Byte → List Byte → Instr) :
    List Byte → Decoded
  | c0 :: r =>
    if g then
      match r with
      | c1 :: r' => takeBody k r' (gen c0 c1)
      | [] => .truncated
    else takeBody k r (dcs c0)
  | [] => .truncated

/-- Format FC: dest_start, dest_len, four value bytes (R105). -/
def decodeConst (x : Bool) : List Byte → Decoded
  | ds :: dl :: v0 :: v1 :: v2 :: v3 :: r => .ok (.constField x ds dl (le32 v0 v1 v2 v3)) r
  | _ => .truncated

/-- Format FT: dest_start, dest_len, src_start (R105). -/
def decodeTiming (f : Byte → Byte → Byte → Instr) : List Byte → Decoded
  | ds :: dl :: ss :: r => .ok (f ds dl ss) r
  | _ => .truncated

/-- The body of a named opcode (R105). `g` selects the row for the data steps and the reads and is kept as an ignored
flag elsewhere (R102). -/
def decodeNamed (o : OpName) (g : Bool) (r : List Byte) : Decoded :=
  match o with
  | .dcsLength => decodeLength (fun p => if g then .dcsLengthG p else .dcsLength p) r
  | .dcsBuf => decodeArg (fun l => if g then .dcsBufG l else .dcsBuf l) r
  | .delay => decodeArg (.delay g) r
  | .mrps => decodeArg (.mrps g) r
  | .dcsRead1 => decodeRead 1 g .dcsRead1 .dcsRead1G r
  | .dcsRead2 => decodeRead 2 g .dcsRead2 .dcsRead2G r
  | .dcsRead3 => decodeRead 3 g .dcsRead3 .dcsRead3G r
  | .dcsRead4 => decodeRead 4 g .dcsRead4 .dcsRead4G r
  | .dcsRead5 => decodeRead 5 g .dcsRead5 .dcsRead5G r
  | .dcsRead6 => decodeRead 6 g .dcsRead6 .dcsRead6G r
  | .dcsRead7 => decodeRead 7 g .dcsRead7 .dcsRead7G r
  | .dcsRead8 => decodeRead 8 g .dcsRead8 .dcsRead8G r
  | .if1Lane => .ok (.if1Lane g) r
  | .if2Lanes => .ok (.if2Lanes g) r
  | .if3Lanes => .ok (.if3Lanes g) r
  | .if4Lanes => .ok (.if4Lanes g) r
  | .constField => decodeConst g r
  | .hsync => decodeTiming (.hsync g) r
  | .hbp => decodeTiming (.hbp g) r
  | .hactive => decodeTiming (.hactive g) r
  | .hfp => decodeTiming (.hfp g) r
  | .vsync => decodeTiming (.vsync g) r
  | .vbp => decodeTiming (.vbp g) r
  | .vactive => decodeTiming (.vactive g) r
  | .vfp => decodeTiming (.vfp g) r

/-- The decoder under a map (R100, R101, R142): the opcode byte, its class, its body. -/
def decodeWith (m : OpcodeMap) : List Byte → Decoded
  | [] => .truncated
  | op :: r =>
    if isInline (opCode op) then
      takeBody (opCode op).toNat r (fun p => if opGeneric op then .inlineGeneric p else .inlineDcs p)
    else
      match m.classify (opCode op) with
      | some o => decodeNamed o (opGeneric op) r
      | none => .unknownOpcode

/-- The decoder under the default map. -/
def decode (bytes : List Byte) : Decoded := decodeWith OpcodeMap.default bytes

/-- The total length of a step (R106). -/
def Instr.stepLen : Instr → Nat
  | .inlineDcs p => 1 + p.length
  | .inlineGeneric p => 1 + p.length
  | .dcsLength p => 2 + p.length
  | .dcsLengthG p => 2 + p.length
  | .dcsBuf _ => 2
  | .dcsBufG _ => 2
  | .delay _ _ => 2
  | .mrps _ _ => 2
  | .dcsRead1 _ _ => 2 + 0 + 1
  | .dcsRead1G _ _ _ => 2 + 1 + 1
  | .dcsRead2 _ _ => 2 + 0 + 2
  | .dcsRead2G _ _ _ => 2 + 1 + 2
  | .dcsRead3 _ _ => 2 + 0 + 3
  | .dcsRead3G _ _ _ => 2 + 1 + 3
  | .dcsRead4 _ _ => 2 + 0 + 4
  | .dcsRead4G _ _ _ => 2 + 1 + 4
  | .dcsRead5 _ _ => 2 + 0 + 5
  | .dcsRead5G _ _ _ => 2 + 1 + 5
  | .dcsRead6 _ _ => 2 + 0 + 6
  | .dcsRead6G _ _ _ => 2 + 1 + 6
  | .dcsRead7 _ _ => 2 + 0 + 7
  | .dcsRead7G _ _ _ => 2 + 1 + 7
  | .dcsRead8 _ _ => 2 + 0 + 8
  | .dcsRead8G _ _ _ => 2 + 1 + 8
  | .if1Lane _ => 1
  | .if2Lanes _ => 1
  | .if3Lanes _ => 1
  | .if4Lanes _ => 1
  | .constField _ _ _ _ => 7
  | .hsync _ _ _ _ => 4
  | .hbp _ _ _ _ => 4
  | .hactive _ _ _ _ => 4
  | .hfp _ _ _ _ => 4
  | .vsync _ _ _ _ => 4
  | .vbp _ _ _ _ => 4
  | .vactive _ _ _ _ => 4
  | .vfp _ _ _ _ => 4

/-- Whether a step is a lane filter (R103, R143). -/
def Instr.isLaneFilter : Instr → Bool
  | .inlineDcs _ => false
  | .inlineGeneric _ => false
  | .dcsLength _ => false
  | .dcsLengthG _ => false
  | .dcsBuf _ => false
  | .dcsBufG _ => false
  | .delay _ _ => false
  | .mrps _ _ => false
  | .dcsRead1 _ _ => false
  | .dcsRead1G _ _ _ => false
  | .dcsRead2 _ _ => false
  | .dcsRead2G _ _ _ => false
  | .dcsRead3 _ _ => false
  | .dcsRead3G _ _ _ => false
  | .dcsRead4 _ _ => false
  | .dcsRead4G _ _ _ => false
  | .dcsRead5 _ _ => false
  | .dcsRead5G _ _ _ => false
  | .dcsRead6 _ _ => false
  | .dcsRead6G _ _ _ => false
  | .dcsRead7 _ _ => false
  | .dcsRead7G _ _ _ => false
  | .dcsRead8 _ _ => false
  | .dcsRead8G _ _ _ => false
  | .if1Lane _ => true
  | .if2Lanes _ => true
  | .if3Lanes _ => true
  | .if4Lanes _ => true
  | .constField _ _ _ _ => false
  | .hsync _ _ _ _ => false
  | .hbp _ _ _ _ => false
  | .hactive _ _ _ _ => false
  | .hfp _ _ _ _ => false
  | .vsync _ _ _ _ => false
  | .vbp _ _ _ _ => false
  | .vactive _ _ _ _ => false
  | .vfp _ _ _ _ => false

/-- The bytes of a step under a map, from the formats of R105 and the syntax of R110. -/
def encodeWith (m : OpcodeMap) : Instr → List Byte
  | .inlineDcs p => opByte false (BitVec.ofNat 7 p.length) :: p
  | .inlineGeneric p => opByte true (BitVec.ofNat 7 p.length) :: p
  | .dcsLength p => opByte false (m.code .dcsLength) :: BitVec.ofNat 8 p.length :: p
  | .dcsLengthG p => opByte true (m.code .dcsLength) :: BitVec.ofNat 8 p.length :: p
  | .dcsBuf l => [opByte false (m.code .dcsBuf), l]
  | .dcsBufG l => [opByte true (m.code .dcsBuf), l]
  | .delay x ms => [opByte x (m.code .delay), ms]
  | .mrps x n => [opByte x (m.code .mrps), n]
  | .dcsRead1 c0 e => opByte false (m.code .dcsRead1) :: c0 :: e
  | .dcsRead1G c0 c1 e => opByte true (m.code .dcsRead1) :: c0 :: c1 :: e
  | .dcsRead2 c0 e => opByte false (m.code .dcsRead2) :: c0 :: e
  | .dcsRead2G c0 c1 e => opByte true (m.code .dcsRead2) :: c0 :: c1 :: e
  | .dcsRead3 c0 e => opByte false (m.code .dcsRead3) :: c0 :: e
  | .dcsRead3G c0 c1 e => opByte true (m.code .dcsRead3) :: c0 :: c1 :: e
  | .dcsRead4 c0 e => opByte false (m.code .dcsRead4) :: c0 :: e
  | .dcsRead4G c0 c1 e => opByte true (m.code .dcsRead4) :: c0 :: c1 :: e
  | .dcsRead5 c0 e => opByte false (m.code .dcsRead5) :: c0 :: e
  | .dcsRead5G c0 c1 e => opByte true (m.code .dcsRead5) :: c0 :: c1 :: e
  | .dcsRead6 c0 e => opByte false (m.code .dcsRead6) :: c0 :: e
  | .dcsRead6G c0 c1 e => opByte true (m.code .dcsRead6) :: c0 :: c1 :: e
  | .dcsRead7 c0 e => opByte false (m.code .dcsRead7) :: c0 :: e
  | .dcsRead7G c0 c1 e => opByte true (m.code .dcsRead7) :: c0 :: c1 :: e
  | .dcsRead8 c0 e => opByte false (m.code .dcsRead8) :: c0 :: e
  | .dcsRead8G c0 c1 e => opByte true (m.code .dcsRead8) :: c0 :: c1 :: e
  | .if1Lane x => [opByte x (m.code .if1Lane)]
  | .if2Lanes x => [opByte x (m.code .if2Lanes)]
  | .if3Lanes x => [opByte x (m.code .if3Lanes)]
  | .if4Lanes x => [opByte x (m.code .if4Lanes)]
  | .constField x ds dl v =>
    [opByte x (m.code .constField), ds, dl, wordByte v 0, wordByte v 1, wordByte v 2, wordByte v 3]
  | .hsync x ds dl ss => [opByte x (m.code .hsync), ds, dl, ss]
  | .hbp x ds dl ss => [opByte x (m.code .hbp), ds, dl, ss]
  | .hactive x ds dl ss => [opByte x (m.code .hactive), ds, dl, ss]
  | .hfp x ds dl ss => [opByte x (m.code .hfp), ds, dl, ss]
  | .vsync x ds dl ss => [opByte x (m.code .vsync), ds, dl, ss]
  | .vbp x ds dl ss => [opByte x (m.code .vbp), ds, dl, ss]
  | .vactive x ds dl ss => [opByte x (m.code .vactive), ds, dl, ss]
  | .vfp x ds dl ss => [opByte x (m.code .vfp), ds, dl, ss]

/-- The encoder under the default map. -/
def encode (i : Instr) : List Byte := encodeWith OpcodeMap.default i

/-- The longest step is S_DCS_LENGTH with L = 255: 257 bytes (R105). -/
def maxStepBytes : Nat := 257

/-- `n` bytes of a number, the least significant first. -/
def bytesFrom : Nat → Nat → List Byte
  | 0, _ => []
  | n + 1, w => BitVec.ofNat 8 w :: bytesFrom n (w >>> 8)

/-- The bytes of a table word: byte `i` is bits `8i+7 .. 8i` of the low `nbits` bits of `w`, zeros above, up to the longest
step. The block stores the first byte of a step at the lowest program index (R100). -/
def tableBytes (nbits w : Nat) : List Byte := bytesFrom maxStepBytes (w % 2 ^ nbits)

/-- The step this decoder reads from a word of spec/opcode_table.json, under the default map. -/
def decodeTableWord (nbits w : Nat) : Option Instr :=
  match decode (tableBytes nbits w) with
  | .ok i _ => some i
  | .unknownOpcode => none
  | .truncated => none

end Sys2Proof
end

