-- ==== Sys2Proof/Machine/State.lean ====
section
/-! DEFINITION. The machine's state: everything 10_state.md, 47_program_set_host.md and 70_reset_and_hazards.md give the
instance, the inputs the outside world still supplies, and the model's own bookkeeping. Plain data throughout. -/

namespace Sys2Proof.Machine

/-- A scratch buffer: the bytes that differ from `Memory.unlisted`, by strictly rising address. -/
abbrev Memory := List Host.Cell

/-- What an unlisted byte of a scratch buffer reads as. DESIGN CHOICE, unsafe: R410 gives every byte `draw()` at instance
creation (log 5). No event can show it: R43 (unmarked CMD bits), R45 (TX above CURSOR), R41 (RX outside a read). -/
def Memory.unlisted : Byte := 0x00

/-- The canonical form: addresses strictly rising, no entry equal to what an unlisted address reads as. -/
def Memory.wf (m : Memory) : Bool :=
  decide (m.Pairwise (fun x y => x.1 < y.1)) && m.all (fun c => c.2 != Memory.unlisted)

/-- MATCH (R33). -/
inductive MatchStatus where
  | ok
  | mismatch
deriving DecidableEq, Repr

/-- RUN (R46). -/
inductive RunState where
  | idle
  | running
  | waitBus
  | waitSleep
  | done
  | aborted
deriving DecidableEq, Repr

/-- An adapter's error, kept verbatim (R185). DESIGN CHOICE: a natural number (log 22). -/
abbrev ErrKind := Nat

/-- The results of R380. `edefer` is bind-time only. -/
inductive Result where
  | ok
  | mismatch
  | einval
  | ebus (kind : ErrKind)
  | edefer
deriving DecidableEq, Repr

/-- The causes of R381: model annotations, not outputs of the block. -/
inductive Cause where
  | unknownOpcode
  | truncated
  | overflow
  | unaligned
  | busWrite
  | busRead
deriving DecidableEq, Repr

/-- What an abort records beside its code (R381): the cause and the byte offset of the failing step. -/
structure Failure where
  cause : Cause
  offset : Nat
deriving DecidableEq, Repr

/-- One transaction of one of the three interfaces, with its arguments (R172, R177, R181). -/
inductive BusCall where
  /-- MIPI `dcs_write(bytes)`. -/
  | dcsWrite (bytes : List Byte)
  /-- MIPI `generic_write(bytes)`. -/
  | genericWrite (bytes : List Byte)
  /-- MIPI `dcs_read(cmd_byte, n)`. -/
  | dcsRead (cmd : Byte) (n : Nat)
  /-- MIPI `generic_read(two_byte_cmd, n)`. -/
  | genericRead (c0 c1 : Byte) (n : Nat)
  /-- MIPI `set_max_return_packet_size(n)`. -/
  | setMaxReturnPacketSize (n : Byte)
  /-- I²C `write(addr, bytes)`. -/
  | i2cWrite (addr : BitVec 7) (bytes : List Byte)
  /-- I²C `write_read(addr, tx, n)`. -/
  | i2cWriteRead (addr : BitVec 7) (tx : List Byte) (n : Nat)
  /-- SPI `sync_transfer(tx, rx, speed_hz)`; `wantRx` is whether `rx` is given. -/
  | spiTransfer (tx : List Byte) (wantRx : Bool) (speedHz : Nat)
deriving DecidableEq, Repr

/-- An adapter's response (R171, R173, R174, R177, R181). A response with no reply bytes is `ok []`. -/
inductive Answer where
  | ok (bytes : List Byte)
  | protocolError (bytes : List Byte)
  | error (kind : ErrKind)
deriving DecidableEq, Repr

/-- An observable event (R14, R48): a bus call with its response, or a sleep. -/
inductive Event where
  | bus (call : BusCall) (answer : Answer)
  | sleep (ms : Nat)
deriving DecidableEq, Repr

/-- The command bytes of a read (R291): one when `g = 0`, two when `g = 1`. -/
inductive ReadCommand where
  | dcs (c0 : Byte)
  | generic (c0 c1 : Byte)
deriving DecidableEq, Repr

/-- What an outstanding call or sleep belongs to: where the step in progress goes on once it is answered (R46, R76). The
model's own data (log 12). -/
inductive Wait where
  /-- A MIPI write or `set_max_return_packet_size` (R173, R176). -/
  | mipiWrite (call : BusCall)
  /-- The first attempt of a MIPI read of `k` bytes with expected bytes `e` (R175). -/
  | mipiRead (call : BusCall) (k : Nat) (e : List Byte)
  /-- The second attempt of a MIPI read (R175). -/
  | mipiReread (call : BusCall) (k : Nat) (e : List Byte)
  /-- The first attempt of an I²C write (R179). -/
  | i2cWrite (call : BusCall)
  /-- The 10 ms sleep before an I²C write is retried (R179). -/
  | i2cWriteSleep (call : BusCall)
  /-- The retry of an I²C write (R179). -/
  | i2cRewrite (call : BusCall)
  /-- The first attempt of an I²C write_read (R179). -/
  | i2cRead (call : BusCall) (k : Nat) (e : List Byte)
  /-- The 10 ms sleep before an I²C write_read is retried (R179). -/
  | i2cReadSleep (call : BusCall) (k : Nat) (e : List Byte)
  /-- The retry of an I²C write_read (R179). -/
  | i2cReread (call : BusCall) (k : Nat) (e : List Byte)
  /-- The transfer of a byte-mode data step (R208). -/
  | byteWrite
  /-- The flush `CheckRoom` makes before a 9-bit data step of payload `p` is stored (R204). -/
  | storeRoom (p : List Byte)
  /-- The flush before a delay of `ms` (R261). -/
  | delayFlush (ms : Nat)
  /-- The sleep of S_DELAY (R261). -/
  | delaySleep
  /-- The flush before an SPI read (R298). -/
  | readFlush (c : ReadCommand) (k : Nat) (e : List Byte)
  /-- The flush `CheckRoom` makes inside the `store_high` of an SPI read (R205); no legal parameter reaches it. -/
  | readRoom (c : ReadCommand) (k : Nat) (e : List Byte)
  /-- The full-duplex transfer of a 9-bit SPI read (R298). -/
  | readTransfer9 (c : ReadCommand) (k : Nat) (e : List Byte)
  /-- The full-duplex transfer of a byte-mode SPI read (R298). -/
  | readTransfer8 (c : ReadCommand) (k : Nat) (e : List Byte)
  /-- The flush at program end (R147). -/
  | finish
deriving DecidableEq, Repr

/-- The six lifecycle transitions (R360). -/
inductive Transition where
  | powerUp
  | prepare
  | enable
  | disable
  | unprepare
  | powerDown
deriving DecidableEq, Repr

/-- What the host does in a transition, outside the block (R360). -/
inductive HostAct where
  | assertPowerEnable
  | deassertPowerEnable
  | wait (ms : Nat)
  | enableRegulator
  | disableRegulator
  | assertPrepareEnable
  | deassertPrepareEnable
  | assertReset
  | deassertReset
  | unblankBacklight
  | blankBacklight
  /-- The transition failed and passes the result on (prepare, enable). -/
  | propagate (r : Result)
  /-- The transition failed and only logs the result: disable, when its triple fails. R360 gives unprepare the same failure
  entry, but nothing of it fails in the model (log 14). -/
  | logFailure (r : Result)
deriving DecidableEq, Repr

/-- Who called RunTriple: the host directly (R362), or a transition (R360). -/
inductive Caller where
  | direct
  | prepare
  | enable
  | disable
deriving DecidableEq, Repr

/-- RunTriple in progress (R351): the name, the buses still to come, `seen_mismatch`, and the caller. -/
structure Triple where
  name : ProgName
  rest : List Bus
  seenMismatch : Bool
  caller : Caller
deriving DecidableEq, Repr

/-- Which adapters are available at a bind (R362, R412). -/
structure Available where
  i2c : Bool
  mipi : Bool
  spi : Bool
deriving DecidableEq, Repr

/-- What the host asks of the block and of its own lifecycle (R360, R362). -/
inductive Request where
  | bind (cfg : Cfg) (par : Params) (available : Available)
  | unbind
  | runTriple (name : ProgName)
  | transition (t : Transition)
deriving DecidableEq, Repr

/-- The state of one panel instance and its surroundings. INVENTORY.md, "State", gives the rule and the reset value of
each field. -/
structure State where
  /-- The instance exists (R412). -/
  bound : Bool
  /-- CFG (R36). -/
  cfg : Cfg
  /-- The parameters of R8. -/
  par : Params
  /-- PC (R31). -/
  pc : Nat
  /-- SKIP (R32). -/
  skip : Bool
  /-- MATCH (R33). -/
  matchSt : MatchStatus
  /-- CURSOR (R34). -/
  cursor : Nat
  /-- BUS (R35). -/
  bus : Bus
  /-- The name of the program being run (R351). -/
  prog : ProgName
  /-- TX (R40). -/
  tx : Memory
  /-- RX (R41). -/
  rx : Memory
  /-- CMD (R42). -/
  cmd : Memory
  /-- CMDW (R43), one mark for each bit of CMD. -/
  cmdw : BitVec 256
  /-- RUN (R46). -/
  run : RunState
  /-- RESULT (R47). -/
  result : Option Result
  /-- TRACE (R48), oldest first. -/
  trace : List Event
  /-- The host's flag `prepared` (R361). -/
  prepared : Bool
  /-- The host's flag `enabled` (R361). -/
  enabled : Bool
  /-- RunTriple in progress (R351). -/
  triple : Option Triple
  /-- What the last RunTriple or bind gave back (R362). -/
  reply : Option Result
  /-- Cause and offset of the last abort (R381). -/
  failure : Option Failure
  /-- Byte offset of the step in progress (R381). -/
  stepAt : Nat
  /-- The model's own: the outstanding call or sleep (log 12). -/
  wait : Option Wait
  /-- The model's own: the adapter responses still to come (R171, log 6). -/
  answers : List Answer
  /-- The model's own: how many sleeps the environment still ends (R362, log 7). -/
  wakes : Nat
  /-- The model's own: the requests the host still makes (R362, log 14). -/
  requests : List Request
  /-- The model's own: what the host did, oldest first (R360, log 14). -/
  hostLog : List HostAct
  /-- The model's own: how many free values have been drawn (log 8). -/
  draws : Nat
deriving DecidableEq, Repr

/-- Why a step stops with a fault: `Unspecified(reason)` (R146, R382), a case the source gives no meaning. Never a final
state and never a result. -/
inductive Fault where
  /-- S_DCS_LENGTH 0 or S_DCS_BUF 0 (R232, R236, R240). Raised by the data steps before any event. Safe. -/
  | zeroLength
  /-- S_DCS_LENGTH with L above MAX_DATA_PAYLOAD on MIPI or I²C (R235). Raised before any event. Safe. -/
  | payloadTooLong
  /-- S_DCS_BUF with L above DCS_BUF_MAX (R240). Raised before any event. Safe. -/
  | dcsBufTooLong
deriving DecidableEq, Repr

/-- Why a step is refused. -/
inductive Refusal where
  /-- An instruction that has no meaning yet: raised by no arm of this model. Safe. -/
  | notModelled (mnemonic : String)
  /-- A bind with a CFG or OPCODE_MAP the spec admits no instance with (R36, R103, D31, 93_implementation_defined.md §5), or
  with a stream too long or a parameter out of its range (log 28). Raised by the bind request. Safe. -/
  | illegalConfiguration
  /-- A request the host may not make: a second bind of a bound instance (R362: it may not "change CFG later"), or any other
  request of an instance that is not bound (R412). Raised by the host's requests. Safe. -/
  | hostMayNot
deriving DecidableEq, Repr

/-- The outcome of a step of this machine. -/
abbrev StepOutcome := Host.Outcome State Fault Refusal

/-- CFG at `State.reset`, where R410 says "supplied by the host". DESIGN CHOICE, unsafe: no adapter, one lane, empty
programs, zeros (log 3). -/
def blankCfg : Cfg :=
  { hasI2c := false, hasMipi := false, hasSpi := false, i2cAddr := 0, i2cMaxHz := 0, spiMaxHz := 0, spi9bit := false,
    dsiLanes := 1
    programs := { init := ⟨[], [], []⟩, enable := ⟨[], [], []⟩, disable := ⟨[], [], []⟩ }
    timing := ⟨0, 0, 0, 0, 0, 0, 0, 0, 0, 0⟩
    delays := ⟨0, 0, 0, 0, 0, 0⟩
    dsiFormat := 0, handles := 0, physicalSize := 0, busFormat := 0 }

/-- The parameters at `State.reset`: the spec's defaults (R8), and for the two OPEN ones the DESIGN CHOICE of log 2. -/
def defaultParams : Params :=
  { opcodes := OpcodeMap.default, spiReadDummyBits := 0, progLenMax := 65536 }

/-- The instance right after creation (R410, R412) with a configuration and parameters: every field of R410's column "at
instance creation", DESIGN CHOICE values where that column says "not defined" (log 4) or `draw()` (log 5), and no inputs. -/
def State.create (cfg : Cfg) (par : Params) : State :=
  { bound := true, cfg := cfg, par := par
    pc := 0, skip := false, matchSt := .ok, cursor := 0, bus := .i2c, prog := .init
    tx := [], rx := [], cmd := [], cmdw := 0
    run := .idle, result := none, trace := [], prepared := false, enabled := false
    triple := none, reply := none, failure := none, stepAt := 0
    wait := none, answers := [], wakes := 0, requests := [], hostLog := [], draws := 0 }

/-- The machine right after reset: instance creation (R410), since the block has no reset pin (R413). -/
def State.reset : State := State.create blankCfg defaultParams

end Sys2Proof.Machine
end

