-- ==== Sys2Proof/Machine/Ops.lean ====
section
/-! DEFINITION. The shared operations: bytes and bits of the scratch buffers, the program and its entry, events, bus calls
and sleeps, the abort. -/

namespace Sys2Proof.Machine

/-- TX_BYTES (R7, R40). -/
def txSize : Nat := 64

/-- TX_BITS, the packer's capacity (R7, R34). -/
def txBits : Nat := 512

/-- RX_BYTES (R7, R41). -/
def rxSize : Nat := 64

/-- CMD_BYTES (R7, R42). -/
def cmdSize : Nat := 32

/-- The bits of CMD (R7, R42). -/
def cmdBits : Nat := 256

/-! ### Scratch buffers -/

/-- One byte of a buffer (R13). -/
def Memory.read : Memory → Nat → Byte
  | [], _ => Memory.unlisted
  | (k, b) :: r, a => if k = a then b else Memory.read r a

/-- Writes one byte of a buffer and keeps the canonical form (R13). -/
def Memory.write : Memory → Nat → Byte → Memory
  | [], a, b => if b = Memory.unlisted then [] else [(a, b)]
  | (k, v) :: r, a, b =>
    if a < k then
      if b = Memory.unlisted then (k, v) :: r else (a, b) :: (k, v) :: r
    else if a = k then
      if b = Memory.unlisted then r else (a, b) :: r
    else (k, v) :: Memory.write r a b

/-- `MemRead(buf, addr, n)` (R13). -/
def Memory.readBytes (m : Memory) (a n : Nat) : List Byte := (List.range n).map (fun i => m.read (a + i))

/-- `MemWrite(buf, addr, n, v)` (R13). -/
def Memory.writeBytes (m : Memory) (a : Nat) : List Byte → Memory
  | [] => m
  | b :: r => Memory.writeBytes (m.write a b) (a + 1) r

/-! ### Bits and bytes -/

/-- A byte with bit `i` (bit 0 least significant, R10) set to `x`. -/
def setBit (b : Byte) (i : Nat) (x : Bool) : Byte := if x then b ||| (1#8 <<< i) else b &&& ~~~(1#8 <<< i)

/-- The byte whose bit `j` is `f j` (R10). -/
def byteOf (f : Nat → Bool) : Byte := BitVec.ofBoolListLE [f 0, f 1, f 2, f 3, f 4, f 5, f 6, f 7]

/-- The bits of a byte, most significant first (R11). -/
def bits8 (b : Byte) : List Bool :=
  [b.getLsbD 7, b.getLsbD 6, b.getLsbD 5, b.getLsbD 4, b.getLsbD 3, b.getLsbD 2, b.getLsbD 1, b.getLsbD 0]

/-- `ceil_div(a, b)` (R16). -/
def ceilDiv (a b : Nat) : Nat := (a + b - 1) / b

/-! ### The program and its entry -/

/-- The stream of one bus in a triple (R38). -/
def streamOf (t : Streams) : Bus → List Byte
  | .i2c => t.i2c
  | .mipi => t.mipi
  | .spi => t.spi

/-- The triple of a name (R38, R350). -/
def triplesOf (p : Programs) : ProgName → Streams
  | .init => p.init
  | .enable => p.enable
  | .disable => p.disable

/-- P, the program being run: `CFG.programs[name][bus]` (R12, R38). -/
def State.program (s : State) : List Byte := streamOf (triplesOf s.cfg.programs s.prog) s.bus

/-- A triple with the stream of one bus replaced: how a program is supplied from outside (R38). -/
def setStreamOf (t : Streams) (b : Bus) (p : List Byte) : Streams :=
  match b with
  | .i2c => { t with i2c := p }
  | .mipi => { t with mipi := p }
  | .spi => { t with spi := p }

/-- The programs with one stream replaced (R38). -/
def setStream (ps : Programs) (name : ProgName) (b : Bus) (p : List Byte) : Programs :=
  match name with
  | .init => { ps with init := setStreamOf ps.init b p }
  | .enable => { ps with enable := setStreamOf ps.enable b p }
  | .disable => { ps with disable := setStreamOf ps.disable b p }

/-- `CFG.has(bus)` (R351). -/
def hasBus (c : Cfg) : Bus → Bool
  | .i2c => c.hasI2c
  | .mipi => c.hasMipi
  | .spi => c.hasSpi

/-- `ProgramEntry(bus)` of the program `name`: exactly the writes of R411. RESULT is not among them, nor in R354's list, and R410
marks it unchanged there; R49 lists it, and says that it is R411 that re-initialises (DEDUCED, log 10). -/
def State.programEntry (s : State) (name : ProgName) (bus : Bus) : State :=
  { s with
    pc := 0, skip := false, matchSt := .ok, cursor := 0, bus := bus, prog := name, cmdw := 0, run := .running
    stepAt := 0 }

/-! ### Abort -/

/-- `raise Abort(code, cause)` (R145, R385): RESULT and RUN are written, the pending bits are discarded by not being
flushed, CMD, MATCH and SKIP stay. Cause and offset are annotations (R381). There is no return from an abort (R386): the only
way on is `State.programEntry` of another program. -/
def State.abort (s : State) (code : Result) (cause : Cause) : State :=
  { s with result := some code, run := .aborted, failure := some ⟨cause, s.stepAt⟩ }

/-! ### Events, calls and sleeps -/

/-- Appends an event to TRACE (R14, R48). -/
def State.emit (s : State) (e : Event) : State := { s with trace := s.trace ++ [e] }

/-- The block waits (R46): RUN says for what, `w` says where the step goes on. -/
def State.await (s : State) (r : RunState) (w : Wait) : State := { s with run := r, wait := some w }

/-- Which responses an interface's rule allows to a call (R171, R173, R174, R176, R177, R181): reply bytes exactly as many as
requested, `protocol_error` only for a MIPI read. -/
def BusCall.allows : BusCall → Answer → Bool
  | .dcsWrite _, .ok d => d.isEmpty
  | .genericWrite _, .ok d => d.isEmpty
  | .dcsRead _ n, .ok d => d.length == n
  | .genericRead _ _ n, .ok d => d.length == n
  | .setMaxReturnPacketSize _, .ok d => d.isEmpty
  | .i2cWrite _ _, .ok d => d.isEmpty
  | .i2cWriteRead _ _ n, .ok d => d.length == n
  | .spiTransfer tx true _, .ok d => d.length == tx.length
  | .spiTransfer _ false _, .ok d => d.isEmpty
  | .dcsRead _ n, .protocolError d => d.length == n
  | .genericRead _ _ n, .protocolError d => d.length == n
  | _, .protocolError _ => false
  | _, .error _ => true

/-- `BusCall(bus, op, args)` (R14, R76): takes the adapter's response, records call and response in TRACE and goes on with
`k`. With no allowed response to come the call stays outstanding: RUN = WaitBus (R186, log 6). -/
def busCall (c : BusCall) (w : Wait) (k : Answer → State → State) (s : State) : State :=
  match s.answers with
  | a :: rest =>
    if c.allows a then k a { s with answers := rest, trace := s.trace ++ [.bus c a] } else s.await .waitBus w
  | [] => s.await .waitBus w

/-- The end of an outstanding `Sleep`: the environment ends it (R362) or RUN = WaitSleep (R46, log 7). -/
def awaitWake (w : Wait) (k : State → State) (s : State) : State :=
  match s.wakes with
  | n + 1 => k { s with wakes := n }
  | 0 => s.await .waitSleep w

/-- `Sleep(ms)` (R14, R425): recorded in TRACE, then the step goes on with `k` once it has ended. `Sleep(0)` is "an event
with no wait" (R262). -/
def sleepThen (ms : Nat) (w : Wait) (k : State → State) (s : State) : State :=
  if ms = 0 then k (s.emit (.sleep 0)) else awaitWake w k (s.emit (.sleep ms))

/-! ### Free values -/

/-- Marks `n` free values as drawn, so that every `draw()` is a fresh one (R15, R43; log 8). -/
def State.drew (s : State) (n : Nat) : State := { s with draws := s.draws + n }

/-- `draw()` of `n` bytes (R175). -/
def freeBytes (first n : Nat) : List Byte := (List.range n).map (fun i => Config.freeByte (first + i))

end Sys2Proof.Machine
end

