-- ==== Sys2Proof/Machine/Operands.lean ====
section
/-! DEFINITION. The operand forms: command bytes of a read, the bytes S_DCS_BUF takes from CMD, the value and the source bits
of a substitution, and the write every substitution makes. -/

namespace Sys2Proof.Machine

/-- The command bytes in stream order (R108, R291). -/
def ReadCommand.bytes : ReadCommand → List Byte
  | .dcs c0 => [c0]
  | .generic c0 c1 => [c0, c1]

/-! ### The command buffer -/

/-- `CmdBit(b)`: bit `b mod 8` of byte `b / 8` (R44), or `draw()` when the current program has not written it (R43). -/
def cmdBit (s : State) (b : Nat) : Bool :=
  if s.cmdw.getLsbD b then (s.cmd.read (b / 8)).getLsbD (b % 8) else Config.freeBit (s.draws + b)

/-- `CmdBytes(L)` (R237). -/
def cmdBytes (s : State) (l : Nat) : List Byte :=
  (List.range l).map (fun i => byteOf (fun j => cmdBit s (8 * i + j)))

/-- `CmdBit(b) <- x` with its written mark (R43, R44). -/
def setCmdBit (b : Nat) (x : Bool) (s : State) : State :=
  { s with cmd := s.cmd.write (b / 8) (setBit (s.cmd.read (b / 8)) (b % 8) x), cmdw := s.cmdw ||| (1#256 <<< b) }

/-- The bits of a field, written from bit `b` upward (R324). -/
def setCmdBits (b : Nat) : List Bool → State → State
  | [], s => s
  | x :: r, s => setCmdBits (b + 1) r (setCmdBit b x s)

/-! ### Values and source bits -/

/-- The eight timing quantities (R321). -/
inductive TimingField where
  | hsync
  | hbp
  | hactive
  | hfp
  | vsync
  | vbp
  | vactive
  | vfp
deriving DecidableEq, Repr

/-- A difference of two geometry fields: exact when it is not negative, else `draw()` (R322, D9). -/
def timingDiff (hi lo : Word) (n : Nat) : Word := if lo.toNat ≤ hi.toNat then hi - lo else Config.freeWord n

/-- `TimingValue(which)` (R321, R322); `n` numbers the free value it may draw. -/
def timingValue (t : Timing) (n : Nat) : TimingField → Word
  | .hsync => timingDiff t.hsyncEnd t.hsyncStart n
  | .hbp => timingDiff t.htotal t.hsyncEnd n
  | .hactive => t.hdisplay
  | .hfp => timingDiff t.hsyncStart t.hdisplay n
  | .vsync => timingDiff t.vsyncEnd t.vsyncStart n
  | .vbp => timingDiff t.vtotal t.vsyncEnd n
  | .vactive => t.vdisplay
  | .vfp => timingDiff t.vsyncStart t.vdisplay n

/-- `SrcBit(val, src_start, i)`, `draw()` from source bit 32 on (R323, D10). -/
def srcBit (val : Word) (ss i n : Nat) : Bool :=
  if ss + i < 32 then val.getLsbD (ss + i) else Config.freeBit (n + i)

/-- The number of bits a substitution writes: the clamp of R325. -/
def fieldLen (ds dl : Byte) : Nat := min dl.toNat (cmdBits - ds.toNat)

/-- `CmdWrite(ds, dl, val, ss)` (R324). -/
def cmdWrite (ds dl : Byte) (val : Word) (ss : Nat) (s : State) : State :=
  setCmdBits ds.toNat ((List.range (fieldLen ds dl)).map (fun i => srcBit val ss i s.draws))
    (s.drew (fieldLen ds dl))

end Sys2Proof.Machine
end

