-- ==== Sys2Proof/Machine/Flags.lean ====
section
/-! DEFINITION. The two flags: SKIP as a lane filter sets it (R32, R266) and MATCH as a read records it (R33, R292, R295). -/

namespace Sys2Proof.Machine

/-- SKIP after the filter for `k` lanes: set when the lane count differs, never cleared (R266). -/
def laneSkip (k : Nat) (s : State) : State := { s with skip := if s.cfg.dsiLanes = k then s.skip else true }

/-- A byte sequence as a little-endian unsigned integer (R73). -/
def leValue : List Byte → Nat
  | [] => 0
  | b :: r => b.toNat + 256 * leValue r

/-- `Equal(d, e, k)` (R292). -/
def equalLE (d e : List Byte) (k : Nat) : Bool := leValue (d.take k) == leValue (e.take k)

/-- MATCH after a read that received `d` and expected `e` (R294, R295): sticky. -/
def recordMatch (d : List Byte) (k : Nat) (e : List Byte) (s : State) : State :=
  { s with matchSt := if equalLE d e k then s.matchSt else .mismatch }

end Sys2Proof.Machine
end

