-- ==== Sys2Proof/Machine/Packer.lean ====
section
/-! DEFINITION. The SPI bit packer (42_bit_packer.md): the pending bits, the flush, byte and 9-bit framing, extraction. An
operation that may wait for the adapter takes the re-entry point `w` and the continuation `k` of its step. -/

namespace Sys2Proof.Machine

/-- `PutBit(x)` (R200): the packer's only write to TX. -/
def putBit (x : Bool) (s : State) : State :=
  { s with
    tx := s.tx.write (s.cursor / 8) (setBit (s.tx.read (s.cursor / 8)) (7 - s.cursor % 8) x)
    cursor := s.cursor + 1 }

/-- Several bits in transmission order (R200). -/
def putBits : List Bool → State → State
  | [], s => s
  | x :: r, s => putBits r (putBit x s)

/-- `SpiXfer(TX[0..m), want_rx)` and the cursor reset of the flush (R182, R201): BusRead when it receives, else BusWrite. -/
def spiTransfer (m : Nat) (wantRx : Bool) (w : Wait) (k : State → State) (s : State) : State :=
  busCall (.spiTransfer (s.tx.readBytes 0 m) wantRx s.cfg.spiMaxHz) w
    (fun a t =>
      match a with
      | .error kind => t.abort (.ebus kind) (if wantRx then .busRead else .busWrite)
      | .ok d => k { t with rx := if wantRx then t.rx.writeBytes 0 d else t.rx, cursor := 0 }
      | .protocolError _ => t)
    s

/-- `Flush(want_rx)` (R201): nothing pending, no event; else idle-high padding to the byte boundary and one transfer. -/
def flush (wantRx : Bool) (w : Wait) (k : State → State) (s : State) : State :=
  if s.cursor = 0 then k s
  else
    spiTransfer (ceilDiv s.cursor 8) wantRx w k
      (putBits (List.replicate (8 * ceilDiv s.cursor 8 - s.cursor) true) s)

/-- `store_bytes(p)` (R202). -/
def storeBytes (p : List Byte) (k : State → State) (s : State) : State :=
  if s.cursor % 8 ≠ 0 then s.abort .einval .unaligned
  else if s.cursor + 8 * p.length > txBits then s.abort .einval .overflow
  else k (putBits (p.flatMap bits8) s)

/-- The bits of 9-bit framing: `tag0` before the first byte, 1 before every later byte (R203). -/
def frame9 (tag0 : Bool) : List Byte → List Bool
  | [] => []
  | b :: r => tag0 :: (bits8 b ++ frame9 true r)

/-- What `CheckRoom(n)` does once the flush is made (R204): a single append above the capacity fails. -/
def afterRoom (n : Nat) (k : State → State) (s : State) : State :=
  if n > txBits then s.abort .einval .overflow else k s

/-- `CheckRoom(n)` (R204). -/
def checkRoom (n : Nat) (w : Wait) (k : State → State) (s : State) : State :=
  if s.cursor + n > txBits then flush false w (afterRoom n k) s else k s

/-- `store_9bit(p, 0)` of a data step (R203, R207). -/
def store9 (p : List Byte) (s : State) : State :=
  checkRoom (9 * p.length) (.storeRoom p) (putBits (frame9 false p)) s

/-- `SpiDeliver(p)` (R208). -/
def spiDeliver (p : List Byte) (s : State) : State :=
  if s.cfg.spi9bit then store9 p s else storeBytes p (flush false .byteWrite id) s

/-- `RxBit(k)` (R206). -/
def rxBit (s : State) (k : Nat) : Bool := (s.rx.read (k / 8)).getLsbD (7 - k % 8)

/-- `extract(n, start_bit)` (R206): `n` contiguous bytes, most significant bit first. -/
def extract (s : State) (n start : Nat) : List Byte :=
  (List.range n).map (fun i => byteOf (fun j => rxBit s (start + 8 * i + (7 - j))))

end Sys2Proof.Machine
end

