-- ==== Sys2Proof/Machine/Buses.lean ====
section
/-! DEFINITION. The MIPI and I²C interfaces (41_bus_dispatch.md): writes, reads, the two retries, the byte swap, and the
bus-agnostic `Deliver` (R231). -/

namespace Sys2Proof.Machine

/-! ### MIPI -/

/-- A MIPI write or `set_max_return_packet_size`: an error aborts, no retry (R173, R176). -/
def mipiWrite (c : BusCall) (s : State) : State :=
  busCall c (.mipiWrite c)
    (fun a t =>
      match a with
      | .error kind => t.abort (.ebus kind) .busWrite
      | _ => t)
    s

/-- The reply bytes of a MIPI or I²C read go to RX (R41, log 13) and are compared (R294). -/
def compareReply (d : List Byte) (k : Nat) (e : List Byte) (s : State) : State :=
  recordMatch d k e { s with rx := s.rx.writeBytes 0 d }

/-- The second attempt of a MIPI read (R175): its bytes count whether it succeeds or meets a protocol error; after any other
error the success is forced and the bytes are `draw()`. -/
def mipiReread (c : BusCall) (k : Nat) (e : List Byte) (s : State) : State :=
  busCall c (.mipiReread c k e)
    (fun a t =>
      match a with
      | .ok d => compareReply d k e t
      | .protocolError d => compareReply d k e t
      | .error _ => compareReply (freeBytes t.draws k) k e (t.drew k))
    s

/-- `MipiRead(c, g, n)` (R175): a protocol error is retried once, any other error aborts. -/
def mipiRead (c : BusCall) (k : Nat) (e : List Byte) (s : State) : State :=
  busCall c (.mipiRead c k e)
    (fun a t =>
      match a with
      | .ok d => compareReply d k e t
      | .protocolError _ => mipiReread c k e t
      | .error kind => t.abort (.ebus kind) .busRead)
    s

/-- The call of a MIPI read (R175): `dcs_read` of one command byte, `generic_read` of two. -/
def mipiReadCall (k : Nat) : ReadCommand → BusCall
  | .dcs c0 => .dcsRead c0 k
  | .generic c0 c1 => .genericRead c0 c1 k

/-! ### I²C -/

/-- `Swap(p)` (R178). -/
def swap : List Byte → List Byte
  | a :: b :: r => b :: a :: r
  | p => p

/-- The retry of an I²C write: its error is returned (R179). -/
def i2cRewrite (c : BusCall) (s : State) : State :=
  busCall c (.i2cRewrite c)
    (fun a t =>
      match a with
      | .error kind => t.abort (.ebus kind) .busWrite
      | _ => t)
    s

/-- `I2cCall(write, args)` (R179): any failure sleeps 10 ms and retries once. -/
def i2cWrite (c : BusCall) (s : State) : State :=
  busCall c (.i2cWrite c)
    (fun a t =>
      match a with
      | .error _ => sleepThen 10 (.i2cWriteSleep c) (i2cRewrite c) t
      | _ => t)
    s

/-- The retry of an I²C write_read: its error is returned (R179). -/
def i2cReread (c : BusCall) (k : Nat) (e : List Byte) (s : State) : State :=
  busCall c (.i2cReread c k e)
    (fun a t =>
      match a with
      | .error kind => t.abort (.ebus kind) .busRead
      | .ok d => compareReply d k e t
      | .protocolError _ => t)
    s

/-- `I2cCall(write_read, args)` (R179), then the comparison. -/
def i2cRead (c : BusCall) (k : Nat) (e : List Byte) (s : State) : State :=
  busCall c (.i2cRead c k e)
    (fun a t =>
      match a with
      | .error _ => sleepThen 10 (.i2cReadSleep c k e) (i2cReread c k e) t
      | .ok d => compareReply d k e t
      | .protocolError _ => t)
    s

/-! ### SPI read -/

/-- The reply of a 9-bit SPI read, extracted and compared (R298). -/
def readReply9 (c : ReadCommand) (k : Nat) (e : List Byte) (s : State) : State :=
  recordMatch (extract s k (9 * c.bytes.length + s.par.spiReadDummyBits)) k e s

/-- `store_high(SPI_READ_DUMMY_BITS + 8n)` and the full-duplex transfer of a 9-bit SPI read (R205, R298). -/
def readHigh (c : ReadCommand) (k : Nat) (e : List Byte) (s : State) : State :=
  checkRoom (s.par.spiReadDummyBits + 8 * k) (.readRoom c k e)
    (fun t => flush true (.readTransfer9 c k e) (readReply9 c k e)
      (putBits (List.replicate (t.par.spiReadDummyBits + 8 * k) true) t))
    s

/-- The reply of a byte-mode SPI read: `RX[len(c) .. len(c) + n)` (R298). -/
def readReply8 (c : ReadCommand) (k : Nat) (e : List Byte) (s : State) : State :=
  recordMatch (s.rx.readBytes c.bytes.length k) k e s

/-- An SPI read once the pending bits are on the wire (R298). In 9-bit mode the command is packed on the empty buffer, so its
own `CheckRoom` (at most 18 bits) never flushes. -/
def readPacked (c : ReadCommand) (k : Nat) (e : List Byte) (s : State) : State :=
  if s.cfg.spi9bit then readHigh c k e (putBits (frame9 false c.bytes) s)
  else
    storeBytes (c.bytes ++ List.replicate k s.par.spiByteReadFill)
      (flush true (.readTransfer8 c k e) (readReply8 c k e)) s

/-- `SpiRead(c, n)` and the comparison (R298): pending bits first, as their own transfer. -/
def spiRead (c : ReadCommand) (k : Nat) (e : List Byte) (s : State) : State :=
  flush false (.readFlush c k e) (readPacked c k e) s

/-! ### Deliver -/

/-- `Deliver(p, g)` (R231): `g` selects `generic_write` on MIPI and is ignored elsewhere (R102). -/
def deliver (g : Bool) (p : List Byte) (s : State) : State :=
  match s.bus with
  | .mipi => mipiWrite (if g then .genericWrite p else .dcsWrite p) s
  | .i2c => i2cWrite (.i2cWrite s.cfg.i2cAddr (swap p)) s
  | .spi => spiDeliver p s

end Sys2Proof.Machine
end

