-- ==== Sys2Proof/Machine/Control.lean ====
section
/-! DEFINITION. The control steps (44_control_ops.md): S_DELAY, S_MRPS and the four lane filters. The generic flag `x` is
ignored (R102). -/

namespace Sys2Proof.Machine

/-- The sleep of S_DELAY (R261). -/
def delaySleep (ms : Nat) (s : State) : State := sleepThen ms .delaySleep id s

/-- The flush an SPI delay makes first, then its sleep (R261). -/
def delayFlush (ms : Nat) (s : State) : State := flush false (.delayFlush ms) (delaySleep ms) s

/-- S_DELAY (R261, R262). -/
def execDelay (_x : Bool) (ms : Byte) (s : State) : StepOutcome :=
  .next (if s.bus = .spi then delayFlush ms.toNat s else delaySleep ms.toNat s)

/-- S_MRPS (R263): a call on MIPI, nothing on I²C and SPI. -/
def execMrps (_x : Bool) (n : Byte) (s : State) : StepOutcome :=
  .next (if s.bus = .mipi then mipiWrite (.setMaxReturnPacketSize n) s else s)

/-- S_IF_1_LANE (R266). -/
def execIf1Lane (_x : Bool) (s : State) : StepOutcome := .next (laneSkip 1 s)

/-- S_IF_2_LANES (R266). -/
def execIf2Lanes (_x : Bool) (s : State) : StepOutcome := .next (laneSkip 2 s)

/-- S_IF_3_LANES (R266). -/
def execIf3Lanes (_x : Bool) (s : State) : StepOutcome := .next (laneSkip 3 s)

/-- S_IF_4_LANES (R266). -/
def execIf4Lanes (_x : Bool) (s : State) : StepOutcome := .next (laneSkip 4 s)

end Sys2Proof.Machine
end

