-- ==== Sys2Proof/Machine/Data.lean ====
section
/-! DEFINITION. The data steps (43_data_ops.md): INLINE, S_DCS_LENGTH, S_DCS_BUF and their generic forms. -/

namespace Sys2Proof.Machine

/-- The payload limits of S_DCS_LENGTH, then the delivery (R232, R235). -/
def sendLength (g : Bool) (p : List Byte) (s : State) : StepOutcome :=
  if p.length = 0 then .fault .zeroLength
  else if s.bus ≠ .spi ∧ p.length > s.par.maxDataPayload then .fault .payloadTooLong
  else .next (deliver g p s)

/-- The limits of S_DCS_BUF, then the delivery of the first `l` bytes of CMD (R240). -/
def sendBuf (g : Bool) (l : Byte) (s : State) : StepOutcome :=
  if l.toNat = 0 then .fault .zeroLength
  else if l.toNat > s.par.dcsBufMax then .fault .dcsBufTooLong
  else .next (deliver g (cmdBytes s l.toNat) (s.drew (8 * l.toNat)))

/-- INLINE (R233). -/
def execInlineDcs (p : List Byte) (s : State) : StepOutcome := .next (deliver false p s)

/-- INLINE.G (R234). -/
def execInlineGeneric (p : List Byte) (s : State) : StepOutcome := .next (deliver true p s)

/-- S_DCS_LENGTH (R235). -/
def execDcsLength (p : List Byte) (s : State) : StepOutcome := sendLength false p s

/-- S_DCS_LENGTH.G (R235). -/
def execDcsLengthG (p : List Byte) (s : State) : StepOutcome := sendLength true p s

/-- S_DCS_BUF (R240). -/
def execDcsBuf (l : Byte) (s : State) : StepOutcome := sendBuf false l s

/-- S_DCS_BUF.G (R240). -/
def execDcsBufG (l : Byte) (s : State) : StepOutcome := sendBuf true l s

end Sys2Proof.Machine
end

