-- ==== Sys2Proof/Machine/FieldSubst.lean ====
section
/-! DEFINITION. The field substitutions (46_field_subst.md): S_CONST and the eight timing fields. The generic flag `x` is
ignored (R102). -/

namespace Sys2Proof.Machine

/-- The body the timing-field steps share (R328). -/
def substTiming (f : TimingField) (ds dl ss : Byte) (s : State) : State :=
  cmdWrite ds dl (timingValue s.cfg.timing s.draws f) ss.toNat (s.drew 1)

/-- S_CONST (R327). -/
def execConstField (_x : Bool) (ds dl : Byte) (val : Word) (s : State) : StepOutcome := .next (cmdWrite ds dl val 0 s)

/-- S_HSYNC (R329). -/
def execHsync (_x : Bool) (ds dl ss : Byte) (s : State) : StepOutcome := .next (substTiming .hsync ds dl ss s)

/-- S_HBP (R330). -/
def execHbp (_x : Bool) (ds dl ss : Byte) (s : State) : StepOutcome := .next (substTiming .hbp ds dl ss s)

/-- S_HACTIVE (R331). -/
def execHactive (_x : Bool) (ds dl ss : Byte) (s : State) : StepOutcome := .next (substTiming .hactive ds dl ss s)

/-- S_HFP (R332). -/
def execHfp (_x : Bool) (ds dl ss : Byte) (s : State) : StepOutcome := .next (substTiming .hfp ds dl ss s)

/-- S_VSYNC (R333). -/
def execVsync (_x : Bool) (ds dl ss : Byte) (s : State) : StepOutcome := .next (substTiming .vsync ds dl ss s)

/-- S_VBP (R334). -/
def execVbp (_x : Bool) (ds dl ss : Byte) (s : State) : StepOutcome := .next (substTiming .vbp ds dl ss s)

/-- S_VACTIVE (R335). -/
def execVactive (_x : Bool) (ds dl ss : Byte) (s : State) : StepOutcome := .next (substTiming .vactive ds dl ss s)

/-- S_VFP (R336). -/
def execVfp (_x : Bool) (ds dl ss : Byte) (s : State) : StepOutcome := .next (substTiming .vfp ds dl ss s)

end Sys2Proof.Machine
end

