-- ==== Sys2Proof/Machine/ReadCompare.lean ====
section
/-! DEFINITION. The read-and-compare steps (45_read_compare.md): S_DCS_READ1 to S_DCS_READ8 and their generic forms. -/

namespace Sys2Proof.Machine

/-- `ReadCmd(c, g, k)` on the current bus, then the comparison with `e` (R293, R294). -/
def readCompare (k : Nat) (c : ReadCommand) (e : List Byte) (s : State) : State :=
  match s.bus with
  | .mipi => mipiRead (mipiReadCall k c) k e s
  | .i2c => i2cRead (.i2cWriteRead s.cfg.i2cAddr (swap c.bytes) k) k e s
  | .spi => spiRead c k e s

/-- S_DCS_READ1 (R294). -/
def execDcsRead1 (c0 : Byte) (e : List Byte) (s : State) : StepOutcome := .next (readCompare 1 (.dcs c0) e s)

/-- S_DCS_READ1.G (R294). -/
def execDcsRead1G (c0 c1 : Byte) (e : List Byte) (s : State) : StepOutcome :=
  .next (readCompare 1 (.generic c0 c1) e s)

/-- S_DCS_READ2 (R294). -/
def execDcsRead2 (c0 : Byte) (e : List Byte) (s : State) : StepOutcome := .next (readCompare 2 (.dcs c0) e s)

/-- S_DCS_READ2.G (R294). -/
def execDcsRead2G (c0 c1 : Byte) (e : List Byte) (s : State) : StepOutcome :=
  .next (readCompare 2 (.generic c0 c1) e s)

/-- S_DCS_READ3 (R294). -/
def execDcsRead3 (c0 : Byte) (e : List Byte) (s : State) : StepOutcome := .next (readCompare 3 (.dcs c0) e s)

/-- S_DCS_READ3.G (R294). -/
def execDcsRead3G (c0 c1 : Byte) (e : List Byte) (s : State) : StepOutcome :=
  .next (readCompare 3 (.generic c0 c1) e s)

/-- S_DCS_READ4 (R294). -/
def execDcsRead4 (c0 : Byte) (e : List Byte) (s : State) : StepOutcome := .next (readCompare 4 (.dcs c0) e s)

/-- S_DCS_READ4.G (R294). -/
def execDcsRead4G (c0 c1 : Byte) (e : List Byte) (s : State) : StepOutcome :=
  .next (readCompare 4 (.generic c0 c1) e s)

/-- S_DCS_READ5 (R294). -/
def execDcsRead5 (c0 : Byte) (e : List Byte) (s : State) : StepOutcome := .next (readCompare 5 (.dcs c0) e s)

/-- S_DCS_READ5.G (R294). -/
def execDcsRead5G (c0 c1 : Byte) (e : List Byte) (s : State) : StepOutcome :=
  .next (readCompare 5 (.generic c0 c1) e s)

/-- S_DCS_READ6 (R294). -/
def execDcsRead6 (c0 : Byte) (e : List Byte) (s : State) : StepOutcome := .next (readCompare 6 (.dcs c0) e s)

/-- S_DCS_READ6.G (R294). -/
def execDcsRead6G (c0 c1 : Byte) (e : List Byte) (s : State) : StepOutcome :=
  .next (readCompare 6 (.generic c0 c1) e s)

/-- S_DCS_READ7 (R294). -/
def execDcsRead7 (c0 : Byte) (e : List Byte) (s : State) : StepOutcome := .next (readCompare 7 (.dcs c0) e s)

/-- S_DCS_READ7.G (R294). -/
def execDcsRead7G (c0 c1 : Byte) (e : List Byte) (s : State) : StepOutcome :=
  .next (readCompare 7 (.generic c0 c1) e s)

/-- S_DCS_READ8 (R294). -/
def execDcsRead8 (c0 : Byte) (e : List Byte) (s : State) : StepOutcome := .next (readCompare 8 (.dcs c0) e s)

/-- S_DCS_READ8.G (R294). -/
def execDcsRead8G (c0 c1 : Byte) (e : List Byte) (s : State) : StepOutcome :=
  .next (readCompare 8 (.generic c0 c1) e s)

end Sys2Proof.Machine
end

