-- ==== Sys2Proof/Machine/Dispatch.lean ====
section
/-! DEFINITION. One arm for each instruction. -/

namespace Sys2Proof.Machine

def exec (i : Instr) (s : State) : Host.Outcome State Fault Refusal :=
  match i with
  | .inlineDcs p => Sys2Proof.Machine.execInlineDcs p s
  | .inlineGeneric p => Sys2Proof.Machine.execInlineGeneric p s
  | .dcsLength p => Sys2Proof.Machine.execDcsLength p s
  | .dcsLengthG p => Sys2Proof.Machine.execDcsLengthG p s
  | .dcsBuf l => Sys2Proof.Machine.execDcsBuf l s
  | .dcsBufG l => Sys2Proof.Machine.execDcsBufG l s
  | .delay x ms => Sys2Proof.Machine.execDelay x ms s
  | .mrps x n => Sys2Proof.Machine.execMrps x n s
  | .dcsRead1 c0 e => Sys2Proof.Machine.execDcsRead1 c0 e s
  | .dcsRead1G c0 c1 e => Sys2Proof.Machine.execDcsRead1G c0 c1 e s
  | .dcsRead2 c0 e => Sys2Proof.Machine.execDcsRead2 c0 e s
  | .dcsRead2G c0 c1 e => Sys2Proof.Machine.execDcsRead2G c0 c1 e s
  | .dcsRead3 c0 e => Sys2Proof.Machine.execDcsRead3 c0 e s
  | .dcsRead3G c0 c1 e => Sys2Proof.Machine.execDcsRead3G c0 c1 e s
  | .dcsRead4 c0 e => Sys2Proof.Machine.execDcsRead4 c0 e s
  | .dcsRead4G c0 c1 e => Sys2Proof.Machine.execDcsRead4G c0 c1 e s
  | .dcsRead5 c0 e => Sys2Proof.Machine.execDcsRead5 c0 e s
  | .dcsRead5G c0 c1 e => Sys2Proof.Machine.execDcsRead5G c0 c1 e s
  | .dcsRead6 c0 e => Sys2Proof.Machine.execDcsRead6 c0 e s
  | .dcsRead6G c0 c1 e => Sys2Proof.Machine.execDcsRead6G c0 c1 e s
  | .dcsRead7 c0 e => Sys2Proof.Machine.execDcsRead7 c0 e s
  | .dcsRead7G c0 c1 e => Sys2Proof.Machine.execDcsRead7G c0 c1 e s
  | .dcsRead8 c0 e => Sys2Proof.Machine.execDcsRead8 c0 e s
  | .dcsRead8G c0 c1 e => Sys2Proof.Machine.execDcsRead8G c0 c1 e s
  | .if1Lane x => Sys2Proof.Machine.execIf1Lane x s
  | .if2Lanes x => Sys2Proof.Machine.execIf2Lanes x s
  | .if3Lanes x => Sys2Proof.Machine.execIf3Lanes x s
  | .if4Lanes x => Sys2Proof.Machine.execIf4Lanes x s
  | .constField x ds dl val => Sys2Proof.Machine.execConstField x ds dl val s
  | .hsync x ds dl ss => Sys2Proof.Machine.execHsync x ds dl ss s
  | .hbp x ds dl ss => Sys2Proof.Machine.execHbp x ds dl ss s
  | .hactive x ds dl ss => Sys2Proof.Machine.execHactive x ds dl ss s
  | .hfp x ds dl ss => Sys2Proof.Machine.execHfp x ds dl ss s
  | .vsync x ds dl ss => Sys2Proof.Machine.execVsync x ds dl ss s
  | .vbp x ds dl ss => Sys2Proof.Machine.execVbp x ds dl ss s
  | .vactive x ds dl ss => Sys2Proof.Machine.execVactive x ds dl ss s
  | .vfp x ds dl ss => Sys2Proof.Machine.execVfp x ds dl ss s

end Sys2Proof.Machine
end

