-- ==== Sys2Proof/Machine/Sequencer.lean ====
section
/-! DEFINITION. The bytecode sequencer (40_sequencer.md): one iteration of the loop R148, program end, and the resumption of
a step whose call or sleep was outstanding. -/

namespace Sys2Proof.Machine

/-- RESULT and RUN at program end (R147): a mismatch wins over OK. -/
def finish (s : State) : State :=
  { s with result := some (if s.matchSt = .mismatch then .mismatch else .ok), run := .done }

/-- `End()` (R147): on SPI the pending bits are flushed first, and a flush error wins over a mismatch. -/
def endProgram (s : State) : State := if s.bus = .spi then flush false .finish finish s else finish s

/-- A decoded step with PC already past it (R143): a lane filter is always executed, any other step is passed over when SKIP
is 1, which clears SKIP. -/
def runStep (i : Instr) (s : State) : StepOutcome :=
  if i.isLaneFilter then exec i s
  else if s.skip then .next { s with skip := false }
  else exec i s

/-- PC after a step whose body ran past the end (R31, R106): every `fetch()` that succeeded has advanced it. -/
def pcAtEnd (s : State) : Nat := max s.pc s.program.length

/-- One iteration of the loop R148: end test (R141), decode (R142, R104, R106), filter, skip and dispatch (R143, R144). The
whole body is fetched before any effect (R230). At program end no step is in progress, and R381 does not say which offset a
failing flush of `End()` records: the model records len(P) (DESIGN CHOICE, log 20). -/
def sequencerStep (s : State) : StepOutcome :=
  if s.pc = s.program.length then .next (endProgram { s with stepAt := s.pc })
  else
    match decodeWith s.par.opcodes (s.program.drop s.pc) with
    | .unknownOpcode => .next (State.abort { s with stepAt := s.pc, pc := s.pc + 1 } .einval .unknownOpcode)
    | .truncated => .next (State.abort { s with stepAt := s.pc, pc := pcAtEnd s } .einval .truncated)
    | .ok i _ => runStep i { s with stepAt := s.pc, pc := s.pc + i.stepLen }

/-- Goes on with a step whose call or sleep was outstanding, from where it waits (R76, R186; log 12). -/
def resume (w : Wait) (s : State) : State :=
  match w with
  | .mipiWrite c => mipiWrite c s
  | .mipiRead c k e => mipiRead c k e s
  | .mipiReread c k e => mipiReread c k e s
  | .i2cWrite c => i2cWrite c s
  | .i2cWriteSleep c => awaitWake (.i2cWriteSleep c) (i2cRewrite c) s
  | .i2cRewrite c => i2cRewrite c s
  | .i2cRead c k e => i2cRead c k e s
  | .i2cReadSleep c k e => awaitWake (.i2cReadSleep c k e) (i2cReread c k e) s
  | .i2cReread c k e => i2cReread c k e s
  | .byteWrite => flush false .byteWrite id s
  | .storeRoom p => store9 p s
  | .delayFlush ms => delayFlush ms s
  | .delaySleep => awaitWake .delaySleep id s
  | .readFlush c k e => spiRead c k e s
  | .readRoom c k e => readHigh c k e s
  | .readTransfer9 c k e => flush true (.readTransfer9 c k e) (readReply9 c k e) s
  | .readTransfer8 c k e => flush true (.readTransfer8 c k e) (readReply8 c k e) s
  | .finish => flush false .finish finish s

/-- A step of a block in WaitBus or WaitSleep (R46): it goes on when the environment has answered, else it stays. -/
def resumeStep (s : State) : StepOutcome :=
  match s.wait with
  | some w => .next (resume w { s with run := .running, wait := none })
  | none => .next s

end Sys2Proof.Machine
end

