-- ==== Sys2Proof/Machine/Triple.lean ====
section
/-! DEFINITION. The triple dispatcher RunTriple (47_program_set_host.md R351 to R354) and what the calling transition does
with its result (R360, R361). -/

namespace Sys2Proof.Machine

/-- Records what the host does (R360). -/
def State.act (s : State) (l : List HostAct) : State := { s with hostLog := s.hostLog ++ l }

/-- What the caller does with the result of RunTriple (R360): the rest of a successful transition and its flag, or the
failure actions. Any result but OK is a failure (D23, log 14). A failed prepare or enable leaves its flag (R361, D35); disable
advances either way. -/
def afterTriple (c : Caller) (r : Result) (s : State) : State :=
  match c, r with
  | .direct, _ => s
  | .prepare, .ok => { s with prepared := true }
  | .prepare, r => s.act [.disableRegulator, .propagate r]
  | .enable, .ok => State.act { s with enabled := true } [.wait s.cfg.delays.enable, .unblankBacklight]
  | .enable, r => s.act [.assertReset, .deassertPrepareEnable, .propagate r]
  | .disable, .ok => { s with enabled := false }
  | .disable, r => State.act { s with enabled := false } [.logFailure r]

/-- RunTriple returns `r` to its caller (R351, R362). -/
def tripleReturn (c : Caller) (r : Result) (s : State) : State :=
  afterTriple c r { s with triple := none, reply := some r }

/-- The next bus of a triple whose adapter is present, and the buses after it (R351, R184). -/
def nextBus (c : Cfg) : List Bus → Option (Bus × List Bus)
  | [] => none
  | b :: r => if hasBus c b then some (b, r) else nextBus c r

/-- RunTriple goes on to its next stream, entered afresh (R351, R354), or returns. -/
def advanceTriple (t : Triple) (s : State) : State :=
  match nextBus s.cfg t.rest with
  | some (b, r) => State.programEntry { s with triple := some { t with rest := r } } t.name b
  | none => tripleReturn t.caller (if t.seenMismatch then .mismatch else .ok) s

/-- `RunTriple(name)` begins (R351): I²C, then MIPI, then SPI. -/
def startTriple (c : Caller) (name : ProgName) (s : State) : State :=
  advanceTriple { name := name, rest := [.i2c, .mipi, .spi], seenMismatch := false, caller := c } s

/-- RunTriple after a stream has ended (R351, R352): an error is returned at once, a mismatch by TRIPLE_STOP_ON_MISMATCH. -/
def streamEnded (t : Triple) (s : State) : State :=
  match s.result with
  | some .ok => advanceTriple t s
  | some .mismatch =>
    if s.par.tripleStopOnMismatch then tripleReturn t.caller .mismatch s
    else advanceTriple { t with seenMismatch := true } s
  | some r => tripleReturn t.caller r s
  | none => advanceTriple t s

end Sys2Proof.Machine
end

