-- ==== Sys2Proof/Machine/Lifecycle.lean ====
section
/-! DEFINITION. The host interface (R360 to R362, R412, R414): bind, unbind, RunTriple and the six lifecycle transitions. -/

namespace Sys2Proof.Machine

/-- Whether every stream of a triple, that of an absent bus included, fits PROG_LEN_MAX (R70; DESIGN CHOICE, log 28). -/
def streamsFit (n : Nat) (t : Streams) : Bool := t.i2c.length ≤ n && t.mipi.length ≤ n && t.spi.length ≤ n

/-- Whether every parameter has a legal value (93_implementation_defined.md §6, R103). -/
def paramsLegal (p : Params) : Bool :=
  p.opcodes.legal && 1 ≤ p.maxDataPayload && p.maxDataPayload ≤ 255 && 24 ≤ p.dcsBufMax && p.dcsBufMax ≤ 32
    && p.spiReadDummyBits ≤ 430 && 1 ≤ p.progLenMax

/-- Whether the model admits an instance with this configuration and these parameters: the lane count and the opcode map as the
spec has it (R36, D31, R103, R414). DESIGN CHOICE (log 28): a stream longer than PROG_LEN_MAX, even one that R184 never decodes,
and a parameter outside its legal values make the whole configuration illegal; 93_implementation_defined.md §5 lists neither. -/
def configLegal (c : Cfg) (p : Params) : Bool :=
  1 ≤ c.dsiLanes && c.dsiLanes ≤ 4 && paramsLegal p && streamsFit p.progLenMax c.programs.init
    && streamsFit p.progLenMax c.programs.enable && streamsFit p.progLenMax c.programs.disable

/-- Whether every adapter the configuration has is available (R412, R414). -/
def adaptersReady (c : Cfg) (a : Available) : Bool :=
  (!c.hasI2c || a.i2c) && (!c.hasMipi || a.mipi) && (!c.hasSpi || a.spi)

/-- A new instance (R410, R412) in the surroundings of `s`: the inputs still to come, the host's own record and the count of
free values are not the instance's. -/
def recreate (c : Cfg) (p : Params) (s : State) : State :=
  { State.create c p with
    answers := s.answers, wakes := s.wakes, requests := s.requests, hostLog := s.hostLog, draws := s.draws }

/-- The six transitions (R360) with their idempotence (R361): a transition whose flag already has the target value does
nothing. The order of the transitions is the host's to keep and is not checked (R414, R415). The host's own actions never
fail (DESIGN CHOICE, log 14: R360 does not say what of them could), so unprepare, which runs no triple, never logs. -/
def transition (t : Transition) (s : State) : State :=
  match t with
  | .powerUp => s.act [.assertPowerEnable, .wait s.cfg.delays.powerUp]
  | .prepare =>
    if s.prepared then s
    else
      startTriple .prepare .init
        (s.act [.enableRegulator, .assertPrepareEnable, .deassertReset, .wait s.cfg.delays.prepare])
  | .enable => if s.enabled then s else startTriple .enable .enable s
  | .disable =>
    if s.enabled then startTriple .disable .disable (s.act [.blankBacklight, .wait s.cfg.delays.disable]) else s
  | .unprepare =>
    if s.prepared then
      State.act { s with prepared := false }
        [.wait s.cfg.delays.unprepare, .assertReset, .deassertPrepareEnable, .disableRegulator]
    else s
  | .powerDown => s.act [.wait s.cfg.delays.powerDown, .deassertPowerEnable]

/-- One request of the host (R362, R412). -/
def serve (q : Request) (s : State) : StepOutcome :=
  match q with
  | .bind c p a =>
    if s.bound then .refused .hostMayNot
    else if configLegal c p then
      if adaptersReady c a then .next (recreate c p s) else .next { s with reply := some .edefer }
    else .refused .illegalConfiguration
  | .unbind => if s.bound then .next { recreate blankCfg s.par s with bound := false } else .refused .hostMayNot
  | .runTriple name => if s.bound then .next (startTriple .direct name s) else .refused .hostMayNot
  | .transition t => if s.bound then .next (transition t s) else .refused .hostMayNot

/-- A step of a block that runs no program (R46, R363): RunTriple goes on if one is in progress, else the next request of the
host is served, else nothing happens. -/
def dispatcherStep (s : State) : StepOutcome :=
  match s.triple with
  | some t => .next (streamEnded t s)
  | none =>
    match s.requests with
    | q :: rest => serve q { s with requests := rest }
    | [] => .next s

end Sys2Proof.Machine
end

