-- ==== Sys2Proof/Machine/Step.lean ====
section
/-! DEFINITION. One step of the machine, and the placing of one instruction where it is fetched. -/

namespace Sys2Proof.Machine

/-- One step, by RUN (R46): an iteration of the sequencer, the resumption of a waiting step, or the dispatcher and host. -/
def step (s : State) : Host.Outcome State Fault Refusal :=
  match s.run with
  | .running => sequencerStep s
  | .waitBus => resumeStep s
  | .waitSleep => resumeStep s
  | .idle => dispatcherStep s
  | .done => dispatcherStep s
  | .aborted => dispatcherStep s

/-- `s` about to run the instruction whose table word is `w`: the word's bytes as the program of BUS, entered at byte 0 and
running, with no skip pending (log 16). -/
def State.withFetchWord (s : State) (nbits w : Nat) : State :=
  { s with
    cfg := { s.cfg with programs := setStream s.cfg.programs s.prog s.bus (tableBytes nbits w) }
    pc := 0, skip := false, run := .running }

end Sys2Proof.Machine
end

