-- ==== Sys2Proof/Safety.lean ====
section
/-! DEFINITION. The terms the statements use: the pending bits, what is sent on a wire, the invariant every step keeps, and
which states show a program the same thing. Written from the spec's rules, beside the machine and not through it. -/

namespace Sys2Proof.Machine

/-! ### Bits on the wire -/

/-- The pending bits in transmission order (R45): bit `k` is bit `7 - k mod 8` of `TX[k / 8]`. -/
def pendingBits (s : State) : List Bool :=
  (List.range s.cursor).map (fun k => (s.tx.read (k / 8)).getLsbD (7 - k % 8))

/-- The bits of a byte sequence as it goes on the SPI wire, each byte most significant bit first (R11, R75). -/
def wireBits (p : List Byte) : List Bool := p.flatMap (fun b => (List.range 8).map (fun j => b.getLsbD (7 - j)))

/-- One 9-bit word: the tag, then the byte most significant bit first (R203). -/
def nineBitWord (tag : Bool) (b : Byte) : List Bool := tag :: (List.range 8).map (fun j => b.getLsbD (7 - j))

/-- The 9-bit words of a data step: tag 0 for its first byte, tag 1 for the rest (R207). -/
def nineBit : List Byte → List Bool
  | [] => []
  | c :: d => nineBitWord false c ++ d.flatMap (nineBitWord true)

/-- The bits of one SPI transfer: the pending bits padded with ones to the byte boundary (R201). -/
def padOnes (l : List Bool) : List Bool := l ++ List.replicate ((8 - l.length % 8) % 8) true

/-! ### The steps by shape -/

/-- The data steps that no Unspecified check stops (R233 to R240): the generic flag, the payload, and the state the delivery
starts from (that of S_DCS_BUF has drawn a free value for each bit it reads). -/
inductive Delivers (s : State) : Instr → Bool → List Byte → State → Prop
  | inlineDcs (p : List Byte) (h : (Instr.inlineDcs p).wellFormed = true) : Delivers s (.inlineDcs p) false p s
  | inlineGeneric (p : List Byte) (h : (Instr.inlineGeneric p).wellFormed = true) :
      Delivers s (.inlineGeneric p) true p s
  | dcsLength (p : List Byte) (h1 : p ≠ []) (h2 : s.bus = .spi ∨ p.length ≤ s.par.maxDataPayload) :
      Delivers s (.dcsLength p) false p s
  | dcsLengthG (p : List Byte) (h1 : p ≠ []) (h2 : s.bus = .spi ∨ p.length ≤ s.par.maxDataPayload) :
      Delivers s (.dcsLengthG p) true p s
  | dcsBuf (l : Byte) (h1 : 1 ≤ l.toNat) (h2 : l.toNat ≤ s.par.dcsBufMax) :
      Delivers s (.dcsBuf l) false (cmdBytes s l.toNat) (s.drew (8 * l.toNat))
  | dcsBufG (l : Byte) (h1 : 1 ≤ l.toNat) (h2 : l.toNat ≤ s.par.dcsBufMax) :
      Delivers s (.dcsBufG l) true (cmdBytes s l.toNat) (s.drew (8 * l.toNat))

/-- The sixteen read steps (R294): the width `k`, the command bytes, the `k` expected bytes. -/
inductive Reads : Instr → Nat → ReadCommand → List Byte → Prop
  | read1 (c0 : Byte) (e : List Byte) (h : e.length = 1) : Reads (.dcsRead1 c0 e) 1 (.dcs c0) e
  | read1G (c0 c1 : Byte) (e : List Byte) (h : e.length = 1) :
      Reads (.dcsRead1G c0 c1 e) 1 (.generic c0 c1) e
  | read2 (c0 : Byte) (e : List Byte) (h : e.length = 2) : Reads (.dcsRead2 c0 e) 2 (.dcs c0) e
  | read2G (c0 c1 : Byte) (e : List Byte) (h : e.length = 2) :
      Reads (.dcsRead2G c0 c1 e) 2 (.generic c0 c1) e
  | read3 (c0 : Byte) (e : List Byte) (h : e.length = 3) : Reads (.dcsRead3 c0 e) 3 (.dcs c0) e
  | read3G (c0 c1 : Byte) (e : List Byte) (h : e.length = 3) :
      Reads (.dcsRead3G c0 c1 e) 3 (.generic c0 c1) e
  | read4 (c0 : Byte) (e : List Byte) (h : e.length = 4) : Reads (.dcsRead4 c0 e) 4 (.dcs c0) e
  | read4G (c0 c1 : Byte) (e : List Byte) (h : e.length = 4) :
      Reads (.dcsRead4G c0 c1 e) 4 (.generic c0 c1) e
  | read5 (c0 : Byte) (e : List Byte) (h : e.length = 5) : Reads (.dcsRead5 c0 e) 5 (.dcs c0) e
  | read5G (c0 c1 : Byte) (e : List Byte) (h : e.length = 5) :
      Reads (.dcsRead5G c0 c1 e) 5 (.generic c0 c1) e
  | read6 (c0 : Byte) (e : List Byte) (h : e.length = 6) : Reads (.dcsRead6 c0 e) 6 (.dcs c0) e
  | read6G (c0 c1 : Byte) (e : List Byte) (h : e.length = 6) :
      Reads (.dcsRead6G c0 c1 e) 6 (.generic c0 c1) e
  | read7 (c0 : Byte) (e : List Byte) (h : e.length = 7) : Reads (.dcsRead7 c0 e) 7 (.dcs c0) e
  | read7G (c0 c1 : Byte) (e : List Byte) (h : e.length = 7) :
      Reads (.dcsRead7G c0 c1 e) 7 (.generic c0 c1) e
  | read8 (c0 : Byte) (e : List Byte) (h : e.length = 8) : Reads (.dcsRead8 c0 e) 8 (.dcs c0) e
  | read8G (c0 c1 : Byte) (e : List Byte) (h : e.length = 8) :
      Reads (.dcsRead8G c0 c1 e) 8 (.generic c0 c1) e

/-- The four lane filters and the lane count each carries (R265). -/
inductive Filters : Instr → Nat → Prop
  | one (x : Bool) : Filters (.if1Lane x) 1
  | two (x : Bool) : Filters (.if2Lanes x) 2
  | three (x : Bool) : Filters (.if3Lanes x) 3
  | four (x : Bool) : Filters (.if4Lanes x) 4

/-- The eight timing-field steps (R328): operands, and the two `u32` whose difference is the value (R321); an active size is
itself, a difference with 0. -/
inductive TimingStep (t : Timing) : Instr → Byte → Byte → Byte → Word → Word → Prop
  | hsync (x : Bool) (ds dl ss : Byte) :
      TimingStep t (.hsync x ds dl ss) ds dl ss t.hsyncEnd t.hsyncStart
  | hbp (x : Bool) (ds dl ss : Byte) :
      TimingStep t (.hbp x ds dl ss) ds dl ss t.htotal t.hsyncEnd
  | hactive (x : Bool) (ds dl ss : Byte) :
      TimingStep t (.hactive x ds dl ss) ds dl ss t.hdisplay 0
  | hfp (x : Bool) (ds dl ss : Byte) :
      TimingStep t (.hfp x ds dl ss) ds dl ss t.hsyncStart t.hdisplay
  | vsync (x : Bool) (ds dl ss : Byte) :
      TimingStep t (.vsync x ds dl ss) ds dl ss t.vsyncEnd t.vsyncStart
  | vbp (x : Bool) (ds dl ss : Byte) :
      TimingStep t (.vbp x ds dl ss) ds dl ss t.vtotal t.vsyncEnd
  | vactive (x : Bool) (ds dl ss : Byte) :
      TimingStep t (.vactive x ds dl ss) ds dl ss t.vdisplay 0
  | vfp (x : Bool) (ds dl ss : Byte) :
      TimingStep t (.vfp x ds dl ss) ds dl ss t.vsyncStart t.vdisplay

/-! ### What a write of CMD leaves -/

/-- Bit `b` of the command buffer as it is stored (R44). -/
def storedCmdBit (s : State) (b : Nat) : Bool := (s.cmd.read (b / 8)).getLsbD (b % 8)

/-- `t` is `s` after a substitution wrote a field of CMD from bit `ds`, `len` bits long, whose bit `i` is `f i` (R324, R326):
each bit of the field and its mark, every other bit and mark as before, nothing else changed but the count of free values. -/
def FieldWritten (s t : State) (ds len : Nat) (f : Nat → Bool) : Prop :=
  t = { s with cmd := t.cmd, cmdw := t.cmdw, draws := t.draws } ∧
    (∀ i, i < len → storedCmdBit t (ds + i) = f i ∧ t.cmdw.getLsbD (ds + i) = true) ∧
    (∀ b, b < 256 → (b < ds ∨ ds + len ≤ b) →
      storedCmdBit t b = storedCmdBit s b ∧ t.cmdw.getLsbD b = s.cmdw.getLsbD b)

/-! ### The invariant -/

/-- A transfer is outstanding on SPI: the pending bits are padded to whole bytes and RUN is WaitBus (R201, R46). -/
def State.inTransfer (s : State) : Prop := s.bus = .spi ∧ s.run = .waitBus ∧ s.cursor ≠ 0 ∧ s.cursor % 8 = 0

/-- What an outstanding call or sleep may belong to in a state: the bus of its interface and the RUN state of its kind, a width
of at most 8 reply bytes, and on SPI a transfer with its reason for being made and, when it receives, bits enough for the reply
(R46, R170, R204, R294, R298). -/
def Wait.fits (s : State) : Wait → Prop
  | .mipiWrite _ => s.bus = .mipi ∧ s.run = .waitBus
  | .mipiRead c k _ => s.bus = .mipi ∧ s.run = .waitBus ∧ k ≤ 8 ∧ ∃ rc, c = mipiReadCall k rc
  | .mipiReread c k _ => s.bus = .mipi ∧ s.run = .waitBus ∧ k ≤ 8 ∧ ∃ rc, c = mipiReadCall k rc
  | .i2cWrite _ => s.bus = .i2c ∧ s.run = .waitBus
  | .i2cWriteSleep _ => s.bus = .i2c ∧ s.run = .waitSleep
  | .i2cRewrite _ => s.bus = .i2c ∧ s.run = .waitBus
  | .i2cRead c k _ => s.bus = .i2c ∧ s.run = .waitBus ∧ k ≤ 8 ∧ ∃ a tx, c = .i2cWriteRead a tx k
  | .i2cReadSleep c k _ => s.bus = .i2c ∧ s.run = .waitSleep ∧ k ≤ 8 ∧ ∃ a tx, c = .i2cWriteRead a tx k
  | .i2cReread c k _ => s.bus = .i2c ∧ s.run = .waitBus ∧ k ≤ 8 ∧ ∃ a tx, c = .i2cWriteRead a tx k
  | .byteWrite => s.inTransfer
  | .storeRoom p => s.inTransfer ∧ s.cfg.spi9bit = true ∧ s.cursor + 9 * p.length > txBits
  | .delayFlush _ => s.inTransfer
  | .delaySleep => s.run = .waitSleep ∧ s.cursor = 0
  | .readFlush _ k _ => s.inTransfer ∧ k ≤ 8
  | .readRoom _ _ _ => False
  | .readTransfer9 c k _ =>
    s.inTransfer ∧ s.cfg.spi9bit = true ∧ 9 * c.bytes.length + s.par.spiReadDummyBits + 8 * k ≤ s.cursor
  | .readTransfer8 c k _ => s.inTransfer ∧ s.cfg.spi9bit = false ∧ 8 * (c.bytes.length + k) ≤ s.cursor
  | .finish => s.inTransfer

/-- The invariant of the machine, kept by every step. -/
structure State.Inv (s : State) : Prop where
  /-- The scratch buffers are in canonical form. -/
  txWf : s.tx.wf = true
  rxWf : s.rx.wf = true
  cmdWf : s.cmd.wf = true
  /-- No rule writes outside a buffer (R13, R71). -/
  txRange : ∀ c ∈ s.tx, c.1 < txSize
  rxRange : ∀ c ∈ s.rx, c.1 < rxSize
  cmdRange : ∀ c ∈ s.cmd, c.1 < cmdSize
  /-- `0 ≤ CURSOR ≤ 512` (R34, R210). -/
  cursorLe : s.cursor ≤ txBits
  /-- "On I²C and MIPI CURSOR is always 0" (R147). -/
  cursorSpi : s.bus ≠ .spi → s.cursor = 0
  /-- CURSOR is 0 when a program ends with Done (R210). -/
  cursorDone : s.run = .done → s.cursor = 0
  /-- Between the steps of an SPI program in byte mode nothing is pending: a byte-mode data step flushes at once (R77, R202). -/
  byteAligned : s.run = .running → s.bus = .spi → s.cfg.spi9bit = false → s.cursor = 0
  /-- "the `Unaligned` abort cannot occur" (R202, R381). -/
  aligned : ∀ f, s.failure = some f → f.cause ≠ .unaligned
  /-- PC holds values `0..len(P)` (R31). -/
  pcLe : s.pc ≤ s.program.length
  /-- Only legal configurations have an instance (R36, D31; log 28 for what else makes one illegal). -/
  legal : configLegal s.cfg s.par = true
  /-- RESULT is written when RUN becomes Done or Aborted (R47). -/
  ended : s.run = .done ∨ s.run = .aborted → s.result ≠ none
  /-- A call or sleep is outstanding exactly in WaitBus or WaitSleep (R46). -/
  waiting : s.wait ≠ none ↔ (s.run = .waitBus ∨ s.run = .waitSleep)
  /-- What is outstanding belongs to the state it is outstanding in (R35, R46). -/
  waitFits : ∀ w, s.wait = some w → w.fits s

/-! ### Flushes, events, runs of steps -/

/-- `s1` is `s` after a successful flush of its pending bits (R201): one transfer of exactly those bits padded with ones, CURSOR
0, no byte of TX changed but the one the padding went to, nothing else changed. -/
def Flushed (s s1 : State) : Prop :=
  ∃ bytes rest, s.answers = .ok [] :: rest ∧ wireBits bytes = padOnes (pendingBits s) ∧
    s1 = { s with
      tx := s1.tx, cursor := 0, answers := rest
      trace := s.trace ++ [.bus (.spiTransfer bytes false s.cfg.spiMaxHz) (.ok [])] } ∧
    s1.tx.wf = true ∧ ∀ a, a ≠ s.cursor / 8 → s1.tx.read a = s.tx.read a

/-- `t` is `s` aborted by a flush the adapter answered with an error (R147, R182, R201): one transfer event, CURSOR not reset, no
byte of TX changed but the one the padding went to. -/
def FlushFailed (s t : State) (kind : ErrKind) : Prop :=
  ∃ bytes rest, s.answers = .error kind :: rest ∧ wireBits bytes = padOnes (pendingBits s) ∧
    t = { s with
      tx := t.tx, cursor := 8 * ceilDiv s.cursor 8, answers := rest
      trace := s.trace ++ [.bus (.spiTransfer bytes false s.cfg.spiMaxHz) (.error kind)]
      run := .aborted, result := some (.ebus kind), failure := some ⟨.busWrite, s.stepAt⟩ } ∧
    ∀ a, a ≠ s.cursor / 8 → t.tx.read a = s.tx.read a

/-- `t` is `s` stopped at an SPI transfer of the bits `l` that is not answered (R46, R186): RUN WaitBus, the bits in TX padded with
ones to whole bytes, CURSOR at their end, no byte of TX outside them changed, nothing else changed. -/
def Unanswered (s t : State) (w : Wait) (l : List Bool) : Prop :=
  t = { s with tx := t.tx, cursor := 8 * ceilDiv l.length 8, run := .waitBus, wait := some w } ∧
    pendingBits t = padOnes l ∧ (∀ a, ceilDiv l.length 8 ≤ a → t.tx.read a = s.tx.read a)

/-- The adapter's response an event records, if it is a bus call (R48). -/
def Event.answer? : Event → Option Answer
  | .bus _ a => some a
  | .sleep _ => none

/-- Several steps, each decoded, executed one after another: the state they lead to, or none when one stops. -/
def execAll : List Instr → State → Option State
  | [], s => some s
  | i :: r, s =>
    match exec i s with
    | .next t => execAll r t
    | .fault _ => none
    | .refused _ => none

/-- The steps that flush pending 9-bit bits before anything else (R84, R204, R261, R298): a delay, a read, and a 9-bit data step
whose bits do not fit behind the pending ones, be they more than the capacity by themselves or not (R384). -/
inductive FlushesFirst (s : State) : Instr → Prop
  | delay (x : Bool) (ms : Byte) : FlushesFirst s (.delay x ms)
  | read (i : Instr) (k : Nat) (c : ReadCommand) (e : List Byte) (h : Reads i k c e) : FlushesFirst s i
  | data (i : Instr) (g : Bool) (p : List Byte) (s0 : State) (h : Delivers s i g p s0) (h9 : s.cfg.spi9bit = true)
      (hfull : s.cursor + 9 * p.length > txBits) : FlushesFirst s i

/-- The transitions that run a triple (R360), in a state whose flag lets them (R361): who calls it, its name, and what the host
does before it. -/
inductive Starts (s : State) : Transition → Caller → ProgName → List HostAct → Prop
  | prepare (h : s.prepared = false) : Starts s .prepare .prepare .init
      [.enableRegulator, .assertPrepareEnable, .deassertReset, .wait s.cfg.delays.prepare]
  | enable (h : s.enabled = false) : Starts s .enable .enable .enable []
  | disable (h : s.enabled = true) : Starts s .disable .disable .disable [.blankBacklight, .wait s.cfg.delays.disable]

/-! ### What a program can observe -/

/-- The same state but for scratch contents no program can observe: TX bits at or above CURSOR (R45), all of RX (R41), CMD bits
without a written mark (R43). -/
def SameView (s t : State) : Prop :=
  t = { s with tx := t.tx, rx := t.rx, cmd := t.cmd } ∧ pendingBits t = pendingBits s ∧
    (∀ b, b < 256 → s.cmdw.getLsbD b = true → storedCmdBit t b = storedCmdBit s b)

end Sys2Proof.Machine
end

