-- ==== Sys2Proof/Certificates/Slice0/Obligations.lean ====
section
/-! DEFINITION. The statements for the provers. Each docstring names the rules of spec/ it formalises; where a statement rests
on a choice of the model it names the assumption-log entry. -/

open Sys2Proof Sys2Proof.Machine

/-! ### Encoding -/

/-- Decoding an encoded well-formed step gives it back, with the bytes after it, under every legal map (R100 to R109). -/
def Obligations.DecodeOfEncode : Prop :=
  ∀ (m : OpcodeMap) (i : Instr) (rest : List Byte), m.legal = true → i.wellFormed = true →
    decodeWith m (encodeWith m i ++ rest) = .ok i rest

/-- What the decoder reads is well-formed and encodes to exactly the bytes it consumed: no bit of an encoding is dropped, the
ignored generic flag included (log 17). -/
def Obligations.EncodeOfDecode : Prop :=
  ∀ (m : OpcodeMap) (bytes rest : List Byte) (i : Instr), decodeWith m bytes = .ok i rest →
    i.wellFormed = true ∧ encodeWith m i ++ rest = bytes

/-- A decoded step consumes exactly its step length (R105, R106), at least one byte. -/
def Obligations.StepLengthIsBytesConsumed : Prop :=
  ∀ (m : OpcodeMap) (bytes rest : List Byte) (i : Instr), decodeWith m bytes = .ok i rest →
    bytes.length = i.stepLen + rest.length ∧ 1 ≤ i.stepLen

/-- Words written out from the formats of R105 under the default map decode to the steps they stand for (sanity). -/
def Obligations.SpecWordsDecode : Prop :=
  decode [0x02, 0x11, 0x00] = .ok (.inlineDcs [0x11, 0x00]) [] ∧
  decode [0xBC, 0x01, 0x7F, 0x55] = .ok (.dcsLengthG [0x7F]) [0x55] ∧
  decode [0x3E, 0x78] = .ok (.delay false 0x78) [] ∧
  decode [0xC1, 0x12, 0x34, 0x85, 0x22] = .ok (.dcsRead2G 0x12 0x34 [0x85, 0x22]) [] ∧
  decode [0x4B] = .ok (.if4Lanes false) [] ∧
  decode [0x4C, 0x08, 0x10, 0x78, 0x56, 0x34, 0x12] = .ok (.constField false 0x08 0x10 0x12345678) [] ∧
  decode [0x4F, 0x00, 0x10, 0x04] = .ok (.hactive false 0x00 0x10 0x04) []

/-- Under the default map the unknown opcodes are exactly the bytes R104 lists. -/
def Obligations.UnknownOpcodeBytes : Prop :=
  ∀ (op : Byte) (r : List Byte), decode (op :: r) = .unknownOpcode ↔
    (op = 0x00 ∨ op = 0x80 ∨ (0x55 ≤ op.toNat ∧ op.toNat ≤ 0x7F) ∨ 0xD5 ≤ op.toNat)

/-! ### The sequencer -/

/-- A step of a running block runs the decoded instruction: `step` is `exec` of it, with PC moved past the step and the step's
offset recorded (R142 to R144, R31). A lane filter runs whatever SKIP is; any other step runs when SKIP is 0. -/
def Obligations.StepRunsDecodedInstruction : Prop :=
  ∀ (s : State) (i : Instr) (rest : List Byte), s.run = .running → s.pc < s.program.length →
    decodeWith s.par.opcodes (s.program.drop s.pc) = .ok i rest → (i.isLaneFilter = true ∨ s.skip = false) →
    step s = exec i { s with stepAt := s.pc, pc := s.pc + i.stepLen }

/-- R149: a passed-over step advances PC and clears SKIP and has no other effect; and a lane filter whose lane count differs
suppresses exactly the step that follows it. -/
def Obligations.PassedOverStepHasNoEffect : Prop :=
  (∀ (s : State) (i : Instr) (rest : List Byte), s.run = .running → s.pc < s.program.length →
    decodeWith s.par.opcodes (s.program.drop s.pc) = .ok i rest → i.isLaneFilter = false → s.skip = true →
    step s = .next { s with stepAt := s.pc, pc := s.pc + i.stepLen, skip := false }) ∧
  (∀ (s : State) (f i : Instr) (k : Nat) (r1 rest : List Byte), s.run = .running → s.pc < s.program.length →
    Filters f k → s.cfg.dsiLanes ≠ k → i.isLaneFilter = false →
    decodeWith s.par.opcodes (s.program.drop s.pc) = .ok f r1 → decodeWith s.par.opcodes r1 = .ok i rest →
    Host.Core.run Sys2Proof.core 2 s
      = .next { s with stepAt := s.pc + 1, pc := s.pc + 1 + i.stepLen, skip := false })

/-- R104, R142, R145: a step that starts with an unknown opcode aborts the program with EINVAL, whatever SKIP is, consuming the
opcode byte only; nothing else changes. Where PC stands afterwards is read from `fetch()` (log 11). -/
def Obligations.UnknownOpcodeAborts : Prop :=
  ∀ (s : State), s.run = .running → s.pc < s.program.length →
    decodeWith s.par.opcodes (s.program.drop s.pc) = .unknownOpcode →
    step s = .next { s with
      stepAt := s.pc, pc := s.pc + 1, run := .aborted, result := some .einval
      failure := some ⟨.unknownOpcode, s.pc⟩ }

/-- R106, R145, R230: a step whose body passes the end of the program aborts it with EINVAL, whatever SKIP is, before any effect;
every byte left has been fetched (log 11). -/
def Obligations.TruncatedStepAborts : Prop :=
  ∀ (s : State), s.run = .running → s.pc < s.program.length →
    decodeWith s.par.opcodes (s.program.drop s.pc) = .truncated →
    step s = .next { s with
      stepAt := s.pc, pc := s.program.length, run := .aborted, result := some .einval
      failure := some ⟨.truncated, s.pc⟩ }

/-- R147, R201, R381: program end flushes any pending SPI bits and returns MATCH folded with the flush result; a flush error wins
over a mismatch, a mismatch over OK. The offset recorded there, `stepAt := s.pc`, and with it the offset len(P) in the failure
of a flush that fails, is the model's choice (log 20): `End()` belongs to no step, and no rule gives its offset. -/
def Obligations.ProgramEndFoldsResult : Prop :=
  (∀ (s : State), s.run = .running → s.pc = s.program.length → (s.bus ≠ .spi ∨ s.cursor = 0) →
    step s = .next { s with
      stepAt := s.pc, run := .done
      result := some (if s.matchSt = .mismatch then .mismatch else .ok) }) ∧
  (∀ (s : State) (rest : List Answer), s.run = .running → s.pc = s.program.length → s.bus = .spi → s.cursor ≠ 0 →
    s.tx.wf = true → s.answers = .ok [] :: rest →
    ∃ s1, Flushed { s with stepAt := s.pc } s1 ∧
      step s = .next { s1 with
        run := .done, result := some (if s.matchSt = .mismatch then .mismatch else .ok) }) ∧
  (∀ (s : State) (kind : ErrKind) (rest : List Answer), s.run = .running → s.pc = s.program.length → s.bus = .spi →
    s.cursor ≠ 0 → s.tx.wf = true → s.answers = .error kind :: rest →
    ∃ t, FlushFailed { s with stepAt := s.pc } t kind ∧ step s = .next t)

/-- R152: an iteration of the loop that leaves the block running has advanced PC, and never past the end of the program, which
is the same program. -/
def Obligations.EveryIterationAdvances : Prop :=
  ∀ (s t : State), s.run = .running → s.pc ≤ s.program.length → step s = .next t →
    t.program = s.program ∧ t.pc ≤ s.program.length ∧ (t.run = .running → s.pc < t.pc)

/-- R150: lane filters in a row combine by "and": after them SKIP is set exactly when it was set before or some filter of the run
does not match the lane count; nothing else changes. -/
def Obligations.LaneFiltersCombineByAnd : Prop :=
  ∀ (fs : List (Instr × Nat)) (s : State), (∀ f ∈ fs, Filters f.1 f.2) →
    execAll (fs.map Prod.fst) s
      = some { s with skip := s.skip || fs.any (fun f => decide (s.cfg.dsiLanes ≠ f.2)) }

/-! ### Waiting -/

/-- R186 and 93_implementation_defined.md §4: a call the adapter never answers leaves the block in WaitBus for ever, and a sleep
the environment never ends leaves it in WaitSleep: the run does not end and nothing changes. R363: and a block that runs no
program, with no triple in progress, stays as it is for as long as the host asks nothing: it never starts a program on its own.
That a missing answer, wake or request is an empty input is the model's form (logs 6, 7, 14). -/
def Obligations.StalledBlockStays : Prop :=
  (∀ (s : State) (n : Nat), s.Inv →
    ((s.run = .waitBus ∧ s.answers = []) ∨ (s.run = .waitSleep ∧ s.wakes = 0)) →
    Host.Core.run Sys2Proof.core n s = .next s) ∧
  (∀ (s : State) (n : Nat), (s.run = .idle ∨ s.run = .done ∨ s.run = .aborted) → s.triple = none → s.requests = [] →
    Host.Core.run Sys2Proof.core n s = .next s)

/-- R76, R186, R362: waiting is transparent, for every suspension: an instruction that stops at a call with every answer used, or in
a sleep, goes on as it would have with all the answers, or all the ended sleeps, there from the start; and so does every step of
the machine, the flush at program end and a step that waits a second time included. The form of the inputs and of the
resumption is the model's (logs 6, 7, 12). -/
def Obligations.SuspensionIsTransparent : Prop :=
  (∀ (i : Instr) (s t : State) (a b : List Answer), s.run = .running → s.wait = none →
    exec i { s with answers := a } = .next t → t.run = .waitBus → t.answers = [] →
    step { t with answers := b } = exec i { s with answers := a ++ b }) ∧
  (∀ (i : Instr) (s t : State) (n m : Nat), s.run = .running → s.wait = none →
    exec i { s with wakes := n } = .next t → t.run = .waitSleep →
    step { t with wakes := m } = exec i { s with wakes := n + m }) ∧
  (∀ (s t : State) (a b : List Answer), s.Inv → step { s with answers := a } = .next t → t.run = .waitBus →
    t.answers = [] → step { t with answers := b } = step { s with answers := a ++ b }) ∧
  (∀ (s t : State) (n m : Nat), s.Inv → step { s with wakes := n } = .next t → t.run = .waitSleep →
    step { t with wakes := m } = step { s with wakes := n + m })

/-- R46, R186: with no adapter response to come, a data step on MIPI or I²C, S_MRPS on MIPI and a read on MIPI or I²C stop at their
call: RUN is WaitBus and nothing else changes, no event being recorded. What the outstanding call is kept as, and that it
enters TRACE only when answered, is the model's choice (logs 6, 9, 12). -/
def Obligations.UnansweredCallsWait : Prop :=
  (∀ (s s0 : State) (i : Instr) (g : Bool) (p : List Byte), Delivers s i g p s0 → s.bus ≠ .spi → s.answers = [] →
    exec i s = .next { s0 with
      run := .waitBus
      wait := some (if s.bus = .mipi then .mipiWrite (if g then .genericWrite p else .dcsWrite p)
        else .i2cWrite (.i2cWrite s.cfg.i2cAddr (swap p))) }) ∧
  (∀ (s : State) (x : Bool) (n : Byte), s.bus = .mipi → s.answers = [] →
    exec (.mrps x n) s = .next { s with
      run := .waitBus, wait := some (.mipiWrite (.setMaxReturnPacketSize n)) }) ∧
  (∀ (s : State) (i : Instr) (k : Nat) (c : ReadCommand) (e : List Byte), Reads i k c e → s.bus ≠ .spi →
    s.answers = [] →
    exec i s = .next { s with
      run := .waitBus
      wait := some (if s.bus = .mipi then
          .mipiRead (match c with | .dcs c0 => .dcsRead c0 k | .generic c0 c1 => .genericRead c0 c1 k) k e
        else .i2cRead (.i2cWriteRead s.cfg.i2cAddr (match c with | .dcs c0 => [c0] | .generic c0 c1 => [c1, c0]) k) k e) })

/-- R46, R175, R179, R186: the second calls wait as the first do. On I²C, after a first error, the step is in WaitSleep until the
environment ends the 10 ms sleep, then in WaitBus until the retry is answered; on MIPI, after a protocol error, a read is in
WaitBus until its retry is answered. TRACE has the answered call, and the sleep from its begin (log 9), and no more. That the
bytes of the first protocol error are not written to RX is the model's reading of R41 (log 13). -/
def Obligations.UnansweredRetriesWait : Prop :=
  (∀ (s s0 : State) (i : Instr) (g : Bool) (p : List Byte) (k1 : ErrKind), Delivers s i g p s0 → s.bus = .i2c →
    s.answers = [.error k1] →
    (s.wakes = 0 → ∃ w, exec i s = .next { s0 with
      answers := [], run := .waitSleep, wait := some w
      trace := s.trace ++ [.bus (.i2cWrite s.cfg.i2cAddr (swap p)) (.error k1), .sleep 10] }) ∧
    (∀ n, s.wakes = n + 1 → ∃ w, exec i s = .next { s0 with
      answers := [], wakes := n, run := .waitBus, wait := some w
      trace := s.trace ++ [.bus (.i2cWrite s.cfg.i2cAddr (swap p)) (.error k1), .sleep 10] })) ∧
  (∀ (s : State) (i : Instr) (k : Nat) (c : ReadCommand) (e : List Byte) (call : BusCall) (k1 : ErrKind),
    Reads i k c e → s.bus = .i2c → s.answers = [.error k1] →
    call = .i2cWriteRead s.cfg.i2cAddr (match c with | .dcs c0 => [c0] | .generic c0 c1 => [c1, c0]) k →
    (s.wakes = 0 → ∃ w, exec i s = .next { s with
      answers := [], run := .waitSleep, wait := some w, trace := s.trace ++ [.bus call (.error k1), .sleep 10] }) ∧
    (∀ n, s.wakes = n + 1 → ∃ w, exec i s = .next { s with
      answers := [], wakes := n, run := .waitBus, wait := some w
      trace := s.trace ++ [.bus call (.error k1), .sleep 10] })) ∧
  (∀ (s : State) (i : Instr) (k : Nat) (c : ReadCommand) (e d1 : List Byte), Reads i k c e → s.bus = .mipi →
    d1.length = k → s.answers = [.protocolError d1] →
    ∃ w, exec i s = .next { s with
      answers := [], run := .waitBus, wait := some w
      trace := s.trace ++ [.bus (match c with | .dcs c0 => .dcsRead c0 k | .generic c0 c1 => .genericRead c0 c1 k)
        (.protocolError d1)] })

/-- R46, R186, R201: an SPI transfer the adapter does not answer leaves the step in WaitBus with the bits it sends in TX, padded with
ones to whole bytes, and no event: the first flush of a step that flushes, the transfer of a byte-mode data step, that of a
read, and the flush at program end. Only TX at the bits put, CURSOR, RUN and what is outstanding change (and the count of free
values S_DCS_BUF has drawn, log 8; and at program end the recorded offset, `stepAt := s.pc`, which is the model's choice, log 20).
That the unanswered call is no event yet is the model's choice (log 9), as is the padding being in TX already (log 12). -/
def Obligations.UnansweredTransfersWait : Prop :=
  (∀ (s : State) (i : Instr), FlushesFirst s i → s.bus = .spi → s.cursor ≠ 0 → s.tx.wf = true → s.answers = [] →
    ∃ t w, exec i s = .next t ∧ Unanswered { s with draws := t.draws } t w (pendingBits s)) ∧
  (∀ (s s0 : State) (i : Instr) (g : Bool) (p : List Byte), Delivers s i g p s0 → s.bus = .spi →
    s.cfg.spi9bit = false → s.cursor = 0 → 1 ≤ p.length → 8 * p.length ≤ txBits → s.tx.wf = true → s.answers = [] →
    ∃ t w, exec i s = .next t ∧ Unanswered s0 t w (wireBits p)) ∧
  (∀ (s : State) (i : Instr) (k : Nat) (c : ReadCommand) (e : List Byte), Reads i k c e → s.bus = .spi →
    s.cursor = 0 → s.par.spiReadDummyBits ≤ 430 → s.tx.wf = true → s.answers = [] →
    ∃ t w, exec i s = .next t ∧ Unanswered s t w
      (if s.cfg.spi9bit = true then nineBit c.bytes ++ List.replicate (s.par.spiReadDummyBits + 8 * k) true
        else wireBits (c.bytes ++ List.replicate k s.par.spiByteReadFill))) ∧
  (∀ (s : State), s.run = .running → s.pc = s.program.length → s.bus = .spi → s.cursor ≠ 0 → s.tx.wf = true →
    s.answers = [] →
    ∃ t w, step s = .next t ∧ Unanswered { s with stepAt := s.pc } t w (pendingBits s))

/-! ### Data steps -/

/-- R173, R231, R233 to R235, R240: on MIPI a data step issues `dcs_write` or, with the generic flag, `generic_write` of its
payload and completes; an error aborts with the adapter's error and no retry. -/
def Obligations.MipiDataSteps : Prop :=
  ∀ (s s0 : State) (i : Instr) (g : Bool) (p : List Byte) (rest : List Answer), Delivers s i g p s0 → s.bus = .mipi →
    (s.answers = .ok [] :: rest →
      exec i s = .next { s0 with
        answers := rest
        trace := s.trace ++ [.bus (if g then .genericWrite p else .dcsWrite p) (.ok [])] }) ∧
    (∀ kind, s.answers = .error kind :: rest →
      exec i s = .next { s0 with
        answers := rest
        trace := s.trace ++ [.bus (if g then .genericWrite p else .dcsWrite p) (.error kind)]
        run := .aborted, result := some (.ebus kind), failure := some ⟨.busWrite, s.stepAt⟩ })

/-- R178 to R180, R231: on I²C a data step writes its swapped payload to CFG.i2c_addr, whatever the generic flag, and completes;
a failure sleeps 10 ms and retries once with identical arguments, and the second call's error is returned. -/
def Obligations.I2cDataSteps : Prop :=
  ∀ (s s0 : State) (i : Instr) (g : Bool) (p : List Byte) (rest : List Answer), Delivers s i g p s0 → s.bus = .i2c →
    (s.answers = .ok [] :: rest →
      exec i s = .next { s0 with
        answers := rest, trace := s.trace ++ [.bus (.i2cWrite s.cfg.i2cAddr (swap p)) (.ok [])] }) ∧
    (∀ k1 n, s.answers = .error k1 :: .ok [] :: rest → s.wakes = n + 1 →
      exec i s = .next { s0 with
        answers := rest, wakes := n
        trace := s.trace ++ [.bus (.i2cWrite s.cfg.i2cAddr (swap p)) (.error k1), .sleep 10,
          .bus (.i2cWrite s.cfg.i2cAddr (swap p)) (.ok [])] }) ∧
    (∀ k1 k2 n, s.answers = .error k1 :: .error k2 :: rest → s.wakes = n + 1 →
      exec i s = .next { s0 with
        answers := rest, wakes := n
        trace := s.trace ++ [.bus (.i2cWrite s.cfg.i2cAddr (swap p)) (.error k1), .sleep 10,
          .bus (.i2cWrite s.cfg.i2cAddr (swap p)) (.error k2)]
        run := .aborted, result := some (.ebus k2), failure := some ⟨.busWrite, s.stepAt⟩ })

/-- R178: `Swap(p) = p` if `len(p) < 2`, else bytes 0 and 1 exchange places; and every byte sequence the block transmits on I²C, of
a data step or of the command of a read, is the swapped one. For the command of a read this rests on R178's own sentence
"Applying the swap to the command bytes of a read is this spec's reading" (D18). -/
def Obligations.I2cSwapsFirstTwoBytes : Prop :=
  (∀ p : List Byte, p.length < 2 → swap p = p) ∧
  (∀ (a b : Byte) (tail : List Byte), swap (a :: b :: tail) = b :: a :: tail) ∧
  (∀ (s t : State) (i : Instr) (evs : List Event) (e : Event), i.wellFormed = true → s.bus = .i2c →
    exec i s = .next t → t.trace = s.trace ++ evs → e ∈ evs →
    (∃ ms, e = .sleep ms) ∨
      (∃ g p s0 a, Delivers s i g p s0 ∧ e = .bus (.i2cWrite s.cfg.i2cAddr (swap p)) a) ∨
      (∃ k c x a, Reads i k c x ∧ e = .bus (.i2cWriteRead s.cfg.i2cAddr (swap c.bytes) k) a))

/-- R182, R185, R201, R202, R208, R231: on SPI in byte mode a data step of at most 64 bytes, with nothing pending, makes one transfer of
exactly its payload and leaves CURSOR 0; an error of that transfer aborts with the adapter's error, cause BusWrite (R381), CURSOR
not reset. Either way TX holds the payload and the bytes of TX above it are unchanged. -/
def Obligations.SpiByteModeDataSteps : Prop :=
  ∀ (s s0 : State) (i : Instr) (g : Bool) (p : List Byte) (rest : List Answer), Delivers s i g p s0 → s.bus = .spi →
    s.cfg.spi9bit = false → s.cursor = 0 → 1 ≤ p.length → 8 * p.length ≤ txBits → s.tx.wf = true →
    (s.answers = .ok [] :: rest →
      ∃ t, exec i s = .next t ∧
        t = { s0 with
          tx := t.tx, answers := rest
          trace := s.trace ++ [.bus (.spiTransfer p false s.cfg.spiMaxHz) (.ok [])] } ∧
        (∀ a, t.tx.read a = if a < p.length then p.getD a 0 else s.tx.read a)) ∧
    (∀ kind, s.answers = .error kind :: rest →
      ∃ t, exec i s = .next t ∧
        t = { s0 with
          tx := t.tx, cursor := 8 * p.length, answers := rest
          trace := s.trace ++ [.bus (.spiTransfer p false s.cfg.spiMaxHz) (.error kind)]
          run := .aborted, result := some (.ebus kind), failure := some ⟨.busWrite, s.stepAt⟩ } ∧
        (∀ a, t.tx.read a = if a < p.length then p.getD a 0 else s.tx.read a))

/-- R202, R236: on SPI in byte mode a payload of more than 64 bytes aborts with EINVAL (Overflow) before any event. -/
def Obligations.SpiByteModeOverflow : Prop :=
  ∀ (s s0 : State) (i : Instr) (g : Bool) (p : List Byte), Delivers s i g p s0 → s.bus = .spi →
    s.cfg.spi9bit = false → s.cursor = 0 → 8 * p.length > txBits →
    exec i s = .next { s0 with
      run := .aborted, result := some .einval, failure := some ⟨.overflow, s.stepAt⟩ }

/-- R200, R203, R207, R208: on SPI in 9-bit mode a data step whose bits fit behind the pending ones appends its 9-bit words, tag 0
for the first byte and tag 1 for the rest, and issues no event; the bytes of TX outside those bits are unchanged. -/
def Obligations.NineBitDataStepsPack : Prop :=
  ∀ (s s0 : State) (i : Instr) (g : Bool) (p : List Byte), Delivers s i g p s0 → s.bus = .spi →
    s.cfg.spi9bit = true → s.cursor + 9 * p.length ≤ txBits → s.tx.wf = true →
    ∃ t, exec i s = .next t ∧ t = { s0 with tx := t.tx, cursor := s.cursor + 9 * p.length } ∧
      pendingBits t = pendingBits s ++ nineBit p ∧
      (∀ a, (a < s.cursor / 8 ∨ s.cursor + 9 * p.length ≤ 8 * a) → t.tx.read a = s.tx.read a)

/-- R204, R236: a 9-bit data step of more than 512 bits aborts with EINVAL (Overflow); with nothing pending it issues no event,
else the pending bits go on the wire first, and only then it fails. (When that first transfer fails, the step ends with the
adapter's error before it can overflow: FlushErrorAborts.) -/
def Obligations.NineBitOverflow : Prop :=
  ∀ (s s0 : State) (i : Instr) (g : Bool) (p : List Byte), Delivers s i g p s0 → s.bus = .spi →
    s.cfg.spi9bit = true → 9 * p.length > txBits → s.tx.wf = true →
    (s.cursor = 0 →
      exec i s = .next { s0 with
        run := .aborted, result := some .einval, failure := some ⟨.overflow, s.stepAt⟩ }) ∧
    (∀ rest, s.cursor ≠ 0 → s.answers = .ok [] :: rest →
      ∃ s1, Flushed s0 s1 ∧
        exec i s = .next { s1 with
          run := .aborted, result := some .einval, failure := some ⟨.overflow, s.stepAt⟩ })

/-- R84, R204, R261, R298, R420: on SPI a delay, a read and a 9-bit data step that does not fit first put the pending bits on the
wire, as one transfer of their own, and then do what they do with nothing pending; S_MRPS, the lane filters and the field
substitutions do not flush: they issue no event and leave the pending bits and CURSOR as they were. -/
def Obligations.PendingBitsFlushedFirst : Prop :=
  (∀ (s : State) (i : Instr) (rest : List Answer), FlushesFirst s i → s.bus = .spi → s.cursor ≠ 0 →
    s.tx.wf = true → s.answers = .ok [] :: rest → ∃ s1, Flushed s s1 ∧ exec i s = exec i s1) ∧
  (∀ (s t : State) (i : Instr) (k : Nat) (ds dl ss : Byte) (hi lo : Word) (x : Bool) (v : Word) (n : Byte),
    s.bus = .spi → (Filters i k ∨ TimingStep s.cfg.timing i ds dl ss hi lo ∨ i = .constField x ds dl v ∨ i = .mrps x n) →
    exec i s = .next t → t.trace = s.trace ∧ t.cursor = s.cursor ∧ t.tx = s.tx)

/-- R182, R185, R261, R298, R384: when that first flush meets an adapter error, the step aborts with the adapter's error: one
transfer event, no sleep, no read, nothing packed; the free values S_DCS_BUF has drawn are counted (log 8). This is so also of
a 9-bit data step that would overflow: "a flush error comes before `Overflow`" (R384). -/
def Obligations.FlushErrorAborts : Prop :=
  ∀ (s : State) (i : Instr) (kind : ErrKind) (rest : List Answer), FlushesFirst s i → s.bus = .spi → s.cursor ≠ 0 →
    s.tx.wf = true → s.answers = .error kind :: rest →
    ∃ t, exec i s = .next t ∧ FlushFailed { s with draws := t.draws } t kind

/-- R232, R382: the three Unspecified cases, ZeroLength, PayloadTooLong and DcsBufTooLong, are faults, with the reason of the first
check that fails, and no other instruction of any kind, in any state, faults or is refused. -/
def Obligations.OnlyUnspecifiedLengthsFault : Prop :=
  ∀ (s : State) (i : Instr),
    (∀ f, exec i s = .fault f ↔
      (f = .zeroLength ∧ (i = .dcsLength [] ∨ i = .dcsLengthG [] ∨ i = .dcsBuf 0 ∨ i = .dcsBufG 0)) ∨
      (f = .payloadTooLong ∧ s.bus ≠ .spi ∧
        ∃ p, p ≠ [] ∧ p.length > s.par.maxDataPayload ∧ (i = .dcsLength p ∨ i = .dcsLengthG p)) ∨
      (f = .dcsBufTooLong ∧ ∃ l, l ≠ 0 ∧ l.toNat > s.par.dcsBufMax ∧ (i = .dcsBuf l ∨ i = .dcsBufG l))) ∧
    (∀ r, exec i s ≠ .refused r)

/-- R102, R234: the generic flag of a data step is ignored on I²C and SPI, and that of S_DELAY, S_MRPS, the lane filters and the
field substitutions on every bus. -/
def Obligations.GenericFlagIgnored : Prop :=
  (∀ (s : State) (p : List Byte) (l : Byte), s.bus ≠ .mipi →
    exec (.inlineGeneric p) s = exec (.inlineDcs p) s ∧ exec (.dcsLengthG p) s = exec (.dcsLength p) s ∧
      exec (.dcsBufG l) s = exec (.dcsBuf l) s) ∧
  (∀ (s : State) (x : Bool) (b ds dl ss : Byte) (v : Word),
    exec (.delay x b) s = exec (.delay false b) s ∧ exec (.mrps x b) s = exec (.mrps false b) s ∧
    exec (.if1Lane x) s = exec (.if1Lane false) s ∧ exec (.if2Lanes x) s = exec (.if2Lanes false) s ∧
    exec (.if3Lanes x) s = exec (.if3Lanes false) s ∧ exec (.if4Lanes x) s = exec (.if4Lanes false) s ∧
    exec (.constField x ds dl v) s = exec (.constField false ds dl v) s ∧
    exec (.hsync x ds dl ss) s = exec (.hsync false ds dl ss) s ∧ exec (.hbp x ds dl ss) s = exec (.hbp false ds dl ss) s ∧
    exec (.hactive x ds dl ss) s = exec (.hactive false ds dl ss) s ∧
    exec (.hfp x ds dl ss) s = exec (.hfp false ds dl ss) s ∧
    exec (.vsync x ds dl ss) s = exec (.vsync false ds dl ss) s ∧ exec (.vbp x ds dl ss) s = exec (.vbp false ds dl ss) s ∧
    exec (.vactive x ds dl ss) s = exec (.vactive false ds dl ss) s ∧
    exec (.vfp x ds dl ss) s = exec (.vfp false ds dl ss) s)

/-- R44, R72, R237, R240, R327, R422: on MIPI, S_CONST of 32 bits from bit 0 and then S_DCS_BUF of 4 bytes emit the four bytes of
the value, least significant first. -/
def Obligations.ConstThenBufEmitsLittleEndian : Prop :=
  ∀ (s : State) (x : Bool) (v0 v1 v2 v3 : Byte) (rest : List Answer), s.bus = .mipi → s.cmd.wf = true →
    4 ≤ s.par.dcsBufMax → s.answers = .ok [] :: rest →
    ∃ t, execAll [.constField x 0 32 (v3 ++ v2 ++ v1 ++ v0), .dcsBuf 4] s = some t ∧
      t = { s with
        cmd := t.cmd, cmdw := t.cmdw, draws := t.draws, answers := rest
        trace := s.trace ++ [.bus (.dcsWrite [v0, v1, v2, v3]) (.ok [])] }

/-- R44, R237, R240: what S_DCS_BUF emits. Bit `j` of emitted byte `i` is the stored bit `8i + j` of CMD whenever that bit's written
mark is 1 (R43 leaves the others free: log 8), for every legal length, on every bus: the payload of its MIPI write, the payload
its I²C write swaps, the bytes of its byte-mode transfer, and the 9-bit words it packs. -/
def Obligations.StoredBitsAreEmitted : Prop :=
  ∀ (s : State) (l : Byte) (g : Bool) (i : Instr), i = (if g then .dcsBufG l else .dcsBuf l) → 1 ≤ l.toNat →
    l.toNat ≤ s.par.dcsBufMax →
    ∃ p s0, Delivers s i g p s0 ∧ p.length = l.toNat ∧
      (∀ b, b < 8 * l.toNat → s.cmdw.getLsbD b = true → (p.getD (b / 8) 0).getLsbD (b % 8) = storedCmdBit s b) ∧
      (∀ rest, s.answers = .ok [] :: rest →
        (s.bus = .spi → s.cfg.spi9bit = false ∧ s.cursor = 0 ∧ l.toNat ≤ txSize ∧ s.tx.wf = true) →
        ∃ t, exec i s = .next t ∧ t.run = s.run ∧ t.cmd = s.cmd ∧ t.cmdw = s.cmdw ∧
          t.trace = s.trace ++ [.bus (match s.bus with
            | .mipi => if g then .genericWrite p else .dcsWrite p
            | .i2c => .i2cWrite s.cfg.i2cAddr (swap p)
            | .spi => .spiTransfer p false s.cfg.spiMaxHz) (.ok [])]) ∧
      (s.bus = .spi → s.cfg.spi9bit = true → s.cursor + 9 * l.toNat ≤ txBits → s.tx.wf = true →
        ∃ t, exec i s = .next t ∧ t.run = s.run ∧ t.cmd = s.cmd ∧ t.cmdw = s.cmdw ∧ t.trace = s.trace ∧
          pendingBits t = pendingBits s ++ nineBit p)

/-! ### Control steps -/

/-- R261, R262: S_DELAY with nothing to flush records `Sleep(ms)`. `Sleep(0)` is "an event with no wait": the step completes at
once. Any other sleep completes once the environment ends it; until then the block is in WaitSleep (R46). That a sleep enters
TRACE when it begins, so that it is there in WaitSleep, is the model's choice (log 9); what ends it is log 7. -/
def Obligations.DelaySleeps : Prop :=
  ∀ (s : State) (x : Bool) (ms : Byte), (s.bus ≠ .spi ∨ s.cursor = 0) →
    (ms = 0 → exec (.delay x ms) s = .next { s with trace := s.trace ++ [.sleep 0] }) ∧
    (∀ n, ms ≠ 0 → s.wakes = n + 1 →
      exec (.delay x ms) s = .next { s with wakes := n, trace := s.trace ++ [.sleep ms.toNat] }) ∧
    (ms ≠ 0 → s.wakes = 0 →
      exec (.delay x ms) s = .next { s with
        run := .waitSleep, wait := some .delaySleep, trace := s.trace ++ [.sleep ms.toNat] })

/-- R263, R264, R176: S_MRPS sets the controller's maximum return packet size on MIPI, unchanged whatever the byte, and an error
aborts; on I²C and SPI it does nothing. -/
def Obligations.MrpsSetsPacketSize : Prop :=
  ∀ (s : State) (x : Bool) (n : Byte),
    (∀ rest, s.bus = .mipi → s.answers = .ok [] :: rest →
      exec (.mrps x n) s = .next { s with
        answers := rest, trace := s.trace ++ [.bus (.setMaxReturnPacketSize n) (.ok [])] }) ∧
    (∀ kind rest, s.bus = .mipi → s.answers = .error kind :: rest →
      exec (.mrps x n) s = .next { s with
        answers := rest, trace := s.trace ++ [.bus (.setMaxReturnPacketSize n) (.error kind)]
        run := .aborted, result := some (.ebus kind), failure := some ⟨.busWrite, s.stepAt⟩ }) ∧
    (s.bus ≠ .mipi → exec (.mrps x n) s = .next s)

/-- R266: the filter for k lanes sets SKIP when CFG.dsi_lanes differs from k and leaves it as it was when it matches, on every
bus; nothing else changes. -/
def Obligations.LaneFilterSetsSkip : Prop :=
  ∀ (s : State) (i : Instr) (k : Nat), Filters i k →
    (s.cfg.dsiLanes ≠ k → exec i s = .next { s with skip := true }) ∧
    (s.cfg.dsiLanes = k → exec i s = .next s)

/-! ### Read and compare -/

/-- R175, R291 to R295: on MIPI a read issues `dcs_read` or `generic_read` of k bytes and compares the reply with the expected
bytes: MATCH becomes mismatch when they differ and keeps its value when they agree. The reply lies in RX (R41, log 13). -/
def Obligations.MipiReadsCompare : Prop :=
  ∀ (s : State) (i : Instr) (k : Nat) (c : ReadCommand) (e d : List Byte) (rest : List Answer), Reads i k c e →
    s.bus = .mipi → s.rx.wf = true → d.length = k → s.answers = .ok d :: rest →
    ∃ t, exec i s = .next t ∧
      t = { s with
        rx := t.rx, answers := rest, matchSt := if d = e then s.matchSt else .mismatch
        trace := s.trace ++
          [.bus (match c with | .dcs c0 => .dcsRead c0 k | .generic c0 c1 => .genericRead c0 c1 k) (.ok d)] } ∧
      (∀ a, t.rx.read a = if a < k then d.getD a 0 else s.rx.read a)

/-- R175, R296: a MIPI read that meets a protocol error is retried exactly once, and the bytes of the second reply count, whether
that reply is ok or a protocol error again. That the second reply lies in RX from byte 0, and that the bytes of the first
protocol error are not written, is the model's reading of R41 (log 13). -/
def Obligations.MipiReadsRetryOnce : Prop :=
  ∀ (s : State) (i : Instr) (k : Nat) (c : ReadCommand) (e d1 d2 : List Byte) (a2 : Answer) (rest : List Answer),
    Reads i k c e → s.bus = .mipi → s.rx.wf = true → d1.length = k → d2.length = k →
    (a2 = .ok d2 ∨ a2 = .protocolError d2) → s.answers = .protocolError d1 :: a2 :: rest →
    ∃ t call, exec i s = .next t ∧
      call = (match c with | .dcs c0 => BusCall.dcsRead c0 k | .generic c0 c1 => .genericRead c0 c1 k) ∧
      t = { s with
        rx := t.rx, answers := rest, matchSt := if d2 = e then s.matchSt else .mismatch
        trace := s.trace ++ [.bus call (.protocolError d1), .bus call a2] } ∧
      (∀ a, t.rx.read a = if a < k then d2.getD a 0 else s.rx.read a)

/-- R175, R296: after a protocol error and then another error the read still succeeds, MATCH left free between its old value and
mismatch because the bytes are a draw (log 8); an error at the first attempt aborts with it. That the drawn bytes are written to
RX from byte 0, so that RX is unchanged from byte k up, is the model's reading of R41 (log 13). -/
def Obligations.MipiReadForcedOrAborted : Prop :=
  ∀ (s : State) (i : Instr) (k : Nat) (c : ReadCommand) (e : List Byte) (kind : ErrKind) (rest : List Answer),
    Reads i k c e → s.bus = .mipi → s.rx.wf = true →
    (∀ d1, d1.length = k → s.answers = .protocolError d1 :: .error kind :: rest →
      ∃ t call, exec i s = .next t ∧
        call = (match c with | .dcs c0 => BusCall.dcsRead c0 k | .generic c0 c1 => .genericRead c0 c1 k) ∧
        t = { s with
          rx := t.rx, answers := rest, matchSt := t.matchSt, draws := t.draws
          trace := s.trace ++ [.bus call (.protocolError d1), .bus call (.error kind)] } ∧
        (t.matchSt = s.matchSt ∨ t.matchSt = .mismatch) ∧ (∀ a, k ≤ a → t.rx.read a = s.rx.read a)) ∧
    (s.answers = .error kind :: rest →
      exec i s = .next { s with
        answers := rest
        trace := s.trace ++
          [.bus (match c with | .dcs c0 => .dcsRead c0 k | .generic c0 c1 => .genericRead c0 c1 k) (.error kind)]
        run := .aborted, result := some (.ebus kind), failure := some ⟨.busRead, s.stepAt⟩ })

/-- R178 to R180, R294: on I²C a read is a `write_read` of the swapped command bytes to CFG.i2c_addr; a failure sleeps 10 ms and
retries once; the reply is compared as on MIPI; two failures abort with the second error. That the reply lies in RX from byte 0
is the model's reading of R41 (log 13). -/
def Obligations.I2cReadsCompare : Prop :=
  ∀ (s : State) (i : Instr) (k : Nat) (c : ReadCommand) (e d : List Byte) (call : BusCall) (rest : List Answer),
    Reads i k c e → s.bus = .i2c → s.rx.wf = true → d.length = k →
    call = .i2cWriteRead s.cfg.i2cAddr (match c with | .dcs c0 => [c0] | .generic c0 c1 => [c1, c0]) k →
    (s.answers = .ok d :: rest →
      ∃ t, exec i s = .next t ∧
        t = { s with
          rx := t.rx, answers := rest, matchSt := if d = e then s.matchSt else .mismatch
          trace := s.trace ++ [.bus call (.ok d)] } ∧
        (∀ a, t.rx.read a = if a < k then d.getD a 0 else s.rx.read a)) ∧
    (∀ k1 n, s.answers = .error k1 :: .ok d :: rest → s.wakes = n + 1 →
      ∃ t, exec i s = .next t ∧
        t = { s with
          rx := t.rx, answers := rest, wakes := n, matchSt := if d = e then s.matchSt else .mismatch
          trace := s.trace ++ [.bus call (.error k1), .sleep 10, .bus call (.ok d)] } ∧
        (∀ a, t.rx.read a = if a < k then d.getD a 0 else s.rx.read a)) ∧
    (∀ k1 k2 n, s.answers = .error k1 :: .error k2 :: rest → s.wakes = n + 1 →
      exec i s = .next { s with
        answers := rest, wakes := n, run := .aborted, result := some (.ebus k2)
        failure := some ⟨.busRead, s.stepAt⟩
        trace := s.trace ++ [.bus call (.error k1), .sleep 10, .bus call (.error k2)] })

/-- R298, byte mode: with nothing pending, a read is one full-duplex transfer of the command bytes and k fill bytes, and the reply
is the received bytes after the first len(c). -/
def Obligations.SpiByteReadsCompare : Prop :=
  ∀ (s : State) (i : Instr) (k : Nat) (c : ReadCommand) (e d : List Byte) (sent : List Byte) (rest : List Answer),
    Reads i k c e → s.bus = .spi → s.cfg.spi9bit = false → s.cursor = 0 → s.tx.wf = true → s.rx.wf = true →
    sent = c.bytes ++ List.replicate k s.par.spiByteReadFill → d.length = sent.length → s.answers = .ok d :: rest →
    ∃ t, exec i s = .next t ∧
      t = { s with
        tx := t.tx, rx := t.rx, answers := rest
        matchSt := if d.drop c.bytes.length = e then s.matchSt else .mismatch
        trace := s.trace ++ [.bus (.spiTransfer sent true s.cfg.spiMaxHz) (.ok d)] } ∧
      (∀ a, t.tx.read a = if a < sent.length then sent.getD a 0 else s.tx.read a) ∧
      (∀ a, t.rx.read a = if a < d.length then d.getD a 0 else s.rx.read a)

/-- R203, R205, R206, R298, 9-bit mode: with nothing pending, a read is one full-duplex transfer of the command's 9-bit words,
SPI_READ_DUMMY_BITS + 8k ones and the padding; the reply is the 8k received bits after the command and the turnaround, read as
bytes most significant bit first. -/
def Obligations.SpiNineBitReadsCompare : Prop :=
  ∀ (s : State) (i : Instr) (k : Nat) (c : ReadCommand) (e d : List Byte) (rest : List Answer), Reads i k c e →
    s.bus = .spi → s.cfg.spi9bit = true → s.cursor = 0 → s.par.spiReadDummyBits ≤ 430 → s.tx.wf = true →
    s.rx.wf = true → d.length = ceilDiv (9 * c.bytes.length + s.par.spiReadDummyBits + 8 * k) 8 →
    s.answers = .ok d :: rest →
    ∃ t sent, exec i s = .next t ∧
      wireBits sent = padOnes (nineBit c.bytes ++ List.replicate (s.par.spiReadDummyBits + 8 * k) true) ∧
      t = { s with
        tx := t.tx, rx := t.rx, answers := rest
        matchSt :=
          if ((wireBits d).drop (9 * c.bytes.length + s.par.spiReadDummyBits)).take (8 * k) = wireBits e then s.matchSt
          else .mismatch
        trace := s.trace ++ [.bus (.spiTransfer sent true s.cfg.spiMaxHz) (.ok d)] } ∧
      (∀ a, sent.length ≤ a → t.tx.read a = s.tx.read a) ∧
      (∀ a, t.rx.read a = if a < d.length then d.getD a 0 else s.rx.read a)

/-- R182, R185, R205, R294, R298: an error of the read transfer on SPI aborts with the adapter's error, cause BusRead; MATCH and
RX are not touched, CURSOR is not reset, and the bytes of TX above the transfer are unchanged. -/
def Obligations.SpiReadErrorAborts : Prop :=
  ∀ (s : State) (i : Instr) (k : Nat) (c : ReadCommand) (e : List Byte) (kind : ErrKind) (rest : List Answer),
    Reads i k c e → s.bus = .spi → s.cursor = 0 → s.par.spiReadDummyBits ≤ 430 → s.tx.wf = true →
    s.answers = .error kind :: rest →
    ∃ t sent, exec i s = .next t ∧
      (s.cfg.spi9bit = false → sent = c.bytes ++ List.replicate k s.par.spiByteReadFill) ∧
      (s.cfg.spi9bit = true →
        wireBits sent = padOnes (nineBit c.bytes ++ List.replicate (s.par.spiReadDummyBits + 8 * k) true)) ∧
      t = { s with
        tx := t.tx, cursor := 8 * sent.length, answers := rest, run := .aborted, result := some (.ebus kind)
        failure := some ⟨.busRead, s.stepAt⟩
        trace := s.trace ++ [.bus (.spiTransfer sent true s.cfg.spiMaxHz) (.error kind)] } ∧
      (∀ a, sent.length ≤ a → t.tx.read a = s.tx.read a)

/-- R292: the little-endian values of k received and k expected bytes are equal exactly when every byte is. -/
def Obligations.ComparisonIsBytewise : Prop :=
  ∀ (d e : List Byte) (k : Nat), d.length = k → e.length = k →
    (equalLE d e k = decide (leValue d = leValue e)) ∧
    (equalLE d e k = true ↔ ∀ i, i < k → d.getD i 0 = e.getD i 0)

/-! ### Field substitution -/

/-- R324 to R327: S_CONST writes `min(dest_len, 256 - dest_start)` bits of its value from bit dest_start of CMD upward, and their
marks, on every bus, and nothing else; field bits 32 and up are free values (R323, log 8). -/
def Obligations.ConstWritesField : Prop :=
  ∀ (s : State) (x : Bool) (ds dl : Byte) (v : Word), s.cmd.wf = true →
    ∃ t f, exec (.constField x ds dl v) s = .next t ∧
      FieldWritten s t ds.toNat (min dl.toNat (256 - ds.toNat)) f ∧ (∀ i, i < 32 → f i = v.getLsbD i)

/-- R321 to R324, R328 to R336: a timing step whose difference is not negative writes, from bit dest_start of CMD upward, the bits
of that difference from bit src_start on; field bits taken from source bit 32 or above are free values (R323, log 8). -/
def Obligations.TimingStepsWriteField : Prop :=
  ∀ (s : State) (i : Instr) (ds dl ss : Byte) (hi lo : Word), TimingStep s.cfg.timing i ds dl ss hi lo →
    lo.toNat ≤ hi.toNat → s.cmd.wf = true →
    ∃ t f, exec i s = .next t ∧ FieldWritten s t ds.toNat (min dl.toNat (256 - ds.toNat)) f ∧
      (∀ j, ss.toNat + j < 32 → f j = (hi.toNat - lo.toNat).testBit (ss.toNat + j))

/-- R322, R326, R336: a timing step whose difference would be negative still writes its field, of free bits (log 8), and nothing
else: it completes as any other. -/
def Obligations.UnorderedTimingWritesFreeField : Prop :=
  ∀ (s : State) (i : Instr) (ds dl ss : Byte) (hi lo : Word), TimingStep s.cfg.timing i ds dl ss hi lo →
    hi.toNat < lo.toNat → s.cmd.wf = true →
    ∃ t f, exec i s = .next t ∧ FieldWritten s t ds.toNat (min dl.toNat (256 - ds.toNat)) f

/-! ### Aborts and what every step keeps -/

/-- R145, R385: an instruction that aborts sets RUN and RESULT (EINVAL or the adapter's error), saves nothing, and leaves SKIP, MATCH,
CMD and CMDW as they were. It leaves PC too: PC is moved by `fetch()` only (R12, R31), which R385 does not say of an abort, so
the PC clause is the model's reading (log 11). -/
def Obligations.AbortKeepsTheRest : Prop :=
  ∀ (s t : State) (i : Instr), s.run = .running → exec i s = .next t → t.run = .aborted →
    (t.result = some .einval ∨ ∃ kind, t.result = some (.ebus kind)) ∧
      t.pc = s.pc ∧ t.skip = s.skip ∧ t.matchSt = s.matchSt ∧ t.cmd = s.cmd ∧ t.cmdw = s.cmdw

/-- What each kind of state is written by: SKIP by lane filters only, and only set (R32); MATCH by reads only, and only to mismatch
(R33); CMD and CMDW by substitutions only (R42, R43); TX and CURSOR on SPI only (R34, R40); RX by reads only (R41); PC, BUS, CFG,
the parameters and the host's flags by no instruction (R31, R35, R36, R361). -/
def Obligations.InstructionsKeepWhatIsNotTheirs : Prop :=
  ∀ (s t : State) (i : Instr), i.wellFormed = true → exec i s = .next t →
    (t.pc = s.pc ∧ t.bus = s.bus ∧ t.cfg = s.cfg ∧ t.par = s.par ∧ t.prog = s.prog ∧ t.prepared = s.prepared ∧
      t.enabled = s.enabled ∧ t.triple = s.triple ∧ t.reply = s.reply ∧ t.hostLog = s.hostLog ∧
      t.requests = s.requests ∧ t.bound = s.bound) ∧
    (t.skip = s.skip ∨ (t.skip = true ∧ ∃ k, Filters i k)) ∧
    (t.matchSt = s.matchSt ∨ (t.matchSt = .mismatch ∧ ∃ k c e, Reads i k c e)) ∧
    ((t.cmd = s.cmd ∧ t.cmdw = s.cmdw) ∨ (∃ x ds dl v, i = .constField x ds dl v) ∨
      (∃ ds dl ss hi lo, TimingStep s.cfg.timing i ds dl ss hi lo)) ∧
    (s.bus ≠ .spi → t.tx = s.tx ∧ (t.cursor = s.cursor)) ∧
    (t.rx = s.rx ∨ ∃ k c e, Reads i k c e)

/-- R14, R48, R171: an instruction only appends to TRACE, and the responses its new bus events record are exactly the adapter
responses it used, in order. -/
def Obligations.EventsRecordAnswers : Prop :=
  ∀ (s t : State) (i : Instr), exec i s = .next t →
    ∃ evs : List Event, t.trace = s.trace ++ evs ∧ s.answers = evs.filterMap Event.answer? ++ t.answers

/-- R41, R43, R45, R209, R354, R363: scratch contents no rule gives a meaning are not observable: two states that differ only in TX
bits at or above CURSOR, in RX, and in CMD bits without a written mark do the same under every instruction, and under every
step of the machine (the flush at program end, the resumption of a waiting step, a program entry and the host's requests
included), and differ only so afterwards. -/
def Obligations.UnobservableScratchIsUnobservable : Prop :=
  (∀ (s t : State) (i : Instr), i.wellFormed = true → s.tx.wf = true → t.tx.wf = true → s.rx.wf = true →
    t.rx.wf = true → s.cmd.wf = true → t.cmd.wf = true → s.cursor ≤ txBits → s.par.spiReadDummyBits ≤ 430 →
    SameView s t →
    (∀ s', exec i s = .next s' → ∃ t', exec i t = .next t' ∧ SameView s' t') ∧
    (∀ f, exec i s = .fault f → exec i t = .fault f)) ∧
  (∀ (s t : State), s.Inv → t.Inv → SameView s t →
    (∀ s', step s = .next s' → ∃ t', step t = .next t' ∧ SameView s' t') ∧
    (∀ f, step s = .fault f → step t = .fault f) ∧
    (∀ r, step s = .refused r → step t = .refused r))

/-! ### Program triples -/

/-- R350, R351, R354, R184: RunTriple runs the streams in the order I²C, MIPI, SPI, passing over absent adapters, each entered
afresh by ProgramEntry (R411); after the last it returns OK, or MISMATCH when a stream mismatched and the parameter let it go on.
With no adapter present it returns OK at once. An entry leaves RESULT as it is, as R410, R411 and R354 have it; R49's list is
against that (the model's reading, log 10). -/
def Obligations.TripleRunsStreamsInOrder : Prop :=
  (∀ (s : State) (n : ProgName) (qs : List Request) (pre rest : List Bus) (b : Bus),
    (s.run = .idle ∨ s.run = .done ∨ s.run = .aborted) → s.triple = none → s.bound = true →
    s.requests = .runTriple n :: qs → [Bus.i2c, .mipi, .spi] = pre ++ b :: rest →
    (∀ x ∈ pre, hasBus s.cfg x = false) → hasBus s.cfg b = true →
    step s = .next { s with
      requests := qs, triple := some ⟨n, rest, false, .direct⟩, run := .running, prog := n, bus := b
      pc := 0, skip := false, matchSt := .ok, cursor := 0, cmdw := 0, stepAt := 0 }) ∧
  (∀ (s : State) (n : ProgName) (qs : List Request),
    (s.run = .idle ∨ s.run = .done ∨ s.run = .aborted) → s.triple = none → s.bound = true →
    s.requests = .runTriple n :: qs → (∀ b, hasBus s.cfg b = false) →
    step s = .next { s with requests := qs, reply := some .ok }) ∧
  (∀ (s : State) (n : ProgName) (pre rest : List Bus) (b : Bus) (m : Bool) (c : Caller),
    s.run = .done → s.result = some .ok → s.triple = some ⟨n, pre ++ b :: rest, m, c⟩ →
    (∀ x ∈ pre, hasBus s.cfg x = false) → hasBus s.cfg b = true →
    step s = .next { s with
      triple := some ⟨n, rest, m, c⟩, run := .running, prog := n, bus := b
      pc := 0, skip := false, matchSt := .ok, cursor := 0, cmdw := 0, stepAt := 0 }) ∧
  (∀ (s : State) (n : ProgName) (rest : List Bus) (m : Bool),
    s.run = .done → s.result = some .ok → s.triple = some ⟨n, rest, m, .direct⟩ →
    (∀ x ∈ rest, hasBus s.cfg x = false) →
    step s = .next { s with triple := none, reply := some (if m then .mismatch else .ok) })

/-- R351, R352, D23: RunTriple returns the first error at once, and a mismatch too when TRIPLE_STOP_ON_MISMATCH is true; no later
stream is attempted. When the parameter is false the mismatch is remembered and the next present stream is entered, whoever
called the triple, or, when no stream is left, returned. What is returned goes here to the host itself; what a transition does
with it is LifecycleOutcomes. An entry leaves RESULT as it is (the model's reading, log 10). -/
def Obligations.TripleShortCircuits : Prop :=
  ∀ (s : State) (n : ProgName) (rest : List Bus) (m : Bool) (c : Caller) (r : Result),
    (s.run = .done ∨ s.run = .aborted) → s.result = some r → s.triple = some ⟨n, rest, m, c⟩ →
    (c = .direct → (r = .einval ∨ ∃ kind, r = .ebus kind) →
      step s = .next { s with triple := none, reply := some r }) ∧
    (c = .direct → r = .mismatch → s.par.tripleStopOnMismatch = true →
      step s = .next { s with triple := none, reply := some .mismatch }) ∧
    (c = .direct → r = .mismatch → s.par.tripleStopOnMismatch = false → (∀ x ∈ rest, hasBus s.cfg x = false) →
      step s = .next { s with triple := none, reply := some .mismatch }) ∧
    (∀ pre b later, r = .mismatch → s.par.tripleStopOnMismatch = false → rest = pre ++ b :: later →
      (∀ x ∈ pre, hasBus s.cfg x = false) → hasBus s.cfg b = true →
      step s = .next { s with
        triple := some ⟨n, later, true, c⟩, run := .running, prog := n, bus := b
        pc := 0, skip := false, matchSt := .ok, cursor := 0, cmdw := 0, stepAt := 0 })

/-- R47, R49: RESULT is per program: from its entry to its end no step of a program reads the value an earlier one left there, and
its end overwrites it. Whatever stands in RESULT, a step does the same; the step that ends the program leaves the same state,
and any other leaves RESULT as it was. So it cannot be seen that an entry leaves RESULT as it is (log 10). -/
def Obligations.EarlierResultIsNotRead : Prop :=
  ∀ (s : State) (r : Option Result), (s.run = .running ∨ s.run = .waitBus ∨ s.run = .waitSleep) →
    (∀ t, step s = .next t →
      ((t.run = .done ∨ t.run = .aborted) → t.result ≠ none ∧ step { s with result := r } = .next t) ∧
      (t.run ≠ .done → t.run ≠ .aborted →
        t.result = s.result ∧ step { s with result := r } = .next { t with result := r })) ∧
    (∀ f, step s = .fault f → step { s with result := r } = .fault f)

/-! ### The host -/

/-- R361: "`prepare` and `enable` are idempotent ... Same for their inverses": a transition whose flag already has the target
value runs nothing: no triple, no event, no host action. -/
def Obligations.LifecycleIdempotent : Prop :=
  ∀ (s : State) (t : Transition) (qs : List Request), (s.run = .idle ∨ s.run = .done ∨ s.run = .aborted) →
    s.triple = none → s.bound = true → s.requests = .transition t :: qs →
    ((t = .prepare ∧ s.prepared = true) ∨ (t = .enable ∧ s.enabled = true) ∨ (t = .unprepare ∧ s.prepared = false) ∨
      (t = .disable ∧ s.enabled = false)) →
    step s = .next { s with requests := qs }

/-- R360: what the six transitions do when they do something. Power-up, unprepare with `prepared` set and power-down do their
actions in order, and unprepare clears its flag; prepare, enable and disable do the actions before their triple and enter its
first present stream, the flag as it was; with no adapter present the triple returns OK at once, and the rest of the
transition's actions and its flag follow. That the host's own actions never fail, and what is recorded of them, is the model's
choice (log 14), that the entry leaves RESULT its reading (log 10). -/
def Obligations.TransitionsAct : Prop :=
  ∀ (s : State) (t : Transition) (qs : List Request), (s.run = .idle ∨ s.run = .done ∨ s.run = .aborted) →
    s.triple = none → s.bound = true → s.requests = .transition t :: qs →
    (t = .powerUp → step s = .next { s with
      requests := qs, hostLog := s.hostLog ++ [.assertPowerEnable, .wait s.cfg.delays.powerUp] }) ∧
    (t = .powerDown → step s = .next { s with
      requests := qs, hostLog := s.hostLog ++ [.wait s.cfg.delays.powerDown, .deassertPowerEnable] }) ∧
    (t = .unprepare → s.prepared = true → step s = .next { s with
      requests := qs, prepared := false
      hostLog := s.hostLog ++
        [.wait s.cfg.delays.unprepare, .assertReset, .deassertPrepareEnable, .disableRegulator] }) ∧
    (∀ c n acts, Starts s t c n acts →
      (∀ pre b rest, [Bus.i2c, .mipi, .spi] = pre ++ b :: rest → (∀ x ∈ pre, hasBus s.cfg x = false) →
        hasBus s.cfg b = true →
        step s = .next { s with
          requests := qs, hostLog := s.hostLog ++ acts, triple := some ⟨n, rest, false, c⟩, run := .running, prog := n
          bus := b, pc := 0, skip := false, matchSt := .ok, cursor := 0, cmdw := 0, stepAt := 0 }) ∧
      ((∀ b, hasBus s.cfg b = false) →
        step s = .next { s with
          requests := qs, reply := some .ok
          hostLog := s.hostLog ++ acts ++ (if t = .enable then [.wait s.cfg.delays.enable, .unblankBacklight] else [])
          prepared := if t = .prepare then true else s.prepared
          enabled := if t = .enable then true else if t = .disable then false else s.enabled }))

/-- R360, R361, D35: what the lifecycle does with the result of its triple. A successful prepare or enable sets its flag; a failed
one leaves it and does the failure actions; disable clears its flag either way and logs a failure. An error ends the triple and
fails the transition (R352). That MISMATCH fails it too, whether the triple stops at it by the parameter or has remembered one
when its last stream ends, is the model's reading (log 14: R360 does not name it, and D23 is where it is read from). -/
def Obligations.LifecycleOutcomes : Prop :=
  ∀ (s : State) (n : ProgName) (rest : List Bus) (m : Bool) (c : Caller),
    s.triple = some ⟨n, rest, m, c⟩ →
    (s.run = .done → s.result = some .ok → m = false → (∀ x ∈ rest, hasBus s.cfg x = false) →
      (c = .prepare → step s = .next { s with triple := none, reply := some .ok, prepared := true }) ∧
      (c = .enable → step s = .next { s with
        triple := none, reply := some .ok, enabled := true
        hostLog := s.hostLog ++ [.wait s.cfg.delays.enable, .unblankBacklight] }) ∧
      (c = .disable → step s = .next { s with triple := none, reply := some .ok, enabled := false })) ∧
    (∀ r, ((s.run = .aborted ∧ s.result = some r ∧ (r = .einval ∨ ∃ kind, r = .ebus kind)) ∨
        (s.run = .done ∧ r = .mismatch ∧ s.result = some .mismatch ∧ s.par.tripleStopOnMismatch = true) ∨
        (s.run = .done ∧ r = .mismatch ∧ (∀ x ∈ rest, hasBus s.cfg x = false) ∧
          ((s.result = some .mismatch ∧ s.par.tripleStopOnMismatch = false) ∨ (s.result = some .ok ∧ m = true)))) →
      (c = .prepare → step s = .next { s with
        triple := none, reply := some r, hostLog := s.hostLog ++ [.disableRegulator, .propagate r] }) ∧
      (c = .enable → step s = .next { s with
        triple := none, reply := some r
        hostLog := s.hostLog ++ [.assertReset, .deassertPrepareEnable, .propagate r] }) ∧
      (c = .disable → step s = .next { s with
        triple := none, reply := some r, enabled := false, hostLog := s.hostLog ++ [.logFailure r] }))

/-- R36, R362, R380, R412: a bind of a legal configuration whose adapters are available creates the instance in the state of R410;
one whose required adapter is not available reports EDEFER and creates none; an illegal configuration is refused (D31). That a
stream longer than PROG_LEN_MAX or a parameter outside its legal values makes it illegal is the model's choice (log 28). -/
def Obligations.BindOutcomes : Prop :=
  ∀ (s : State) (c : Cfg) (p : Params) (a : Available) (qs : List Request),
    (s.run = .idle ∨ s.run = .done ∨ s.run = .aborted) → s.triple = none → s.bound = false →
    s.requests = .bind c p a :: qs →
    (configLegal c p = true → (c.hasI2c = true → a.i2c = true) → (c.hasMipi = true → a.mipi = true) →
      (c.hasSpi = true → a.spi = true) →
      ∃ t, step s = .next t ∧ t.bound = true ∧ t.cfg = c ∧ t.par = p ∧ t.run = .idle ∧ t.result = none ∧
        t.trace = [] ∧ t.cmdw = 0 ∧ t.prepared = false ∧ t.enabled = false ∧ t.triple = none ∧ t.wait = none ∧
        t.requests = qs ∧ t.answers = s.answers ∧ t.wakes = s.wakes) ∧
    (configLegal c p = true →
      ((c.hasI2c = true ∧ a.i2c = false) ∨ (c.hasMipi = true ∧ a.mipi = false) ∨ (c.hasSpi = true ∧ a.spi = false)) →
      step s = .next { s with requests := qs, reply := some .edefer }) ∧
    (configLegal c p = false → step s = .refused .illegalConfiguration)

/-- R362, R412: an unbind discards the instance, and nothing of it survives: whatever its state was, what is left is an unbound
block at the values of instance creation, with the inputs still to come, the host's record, the parameters and the count of free
values, none of which is the instance's. What stands where no instance is, and that the host's forbidden requests (a bind of a
bound instance, any other request of an unbound one) are refusals, is the model's choice (log 15, and logs 3 to 5 for values
the spec does not give). -/
def Obligations.UnbindAndForbiddenRequests : Prop :=
  ∀ (s : State) (q : Request) (qs : List Request), (s.run = .idle ∨ s.run = .done ∨ s.run = .aborted) →
    s.triple = none → s.requests = q :: qs →
    (s.bound = true → q = .unbind →
      step s = .next { State.create blankCfg s.par with
        bound := false, answers := s.answers, wakes := s.wakes, requests := qs, hostLog := s.hostLog, draws := s.draws }) ∧
    (s.bound = true → (∃ c p a, q = .bind c p a) → step s = .refused .hostMayNot) ∧
    (s.bound = false → (∀ c p a, q ≠ .bind c p a) → step s = .refused .hostMayNot)

/-- R38, R49, R86: CFG and the parameters never change, and no step writes a program, except where the host binds or unbinds the
instance. -/
def Obligations.ConfigurationIsFixed : Prop :=
  ∀ (s t : State), step s = .next t →
    (t.cfg = s.cfg ∧ t.par = s.par) ∨
      (∃ qs, (s.run = .idle ∨ s.run = .done ∨ s.run = .aborted) ∧ s.triple = none ∧
        (s.requests = .unbind :: qs ∨ ∃ c p a, s.requests = .bind c p a :: qs ∧ t.cfg = c ∧ t.par = p))

/-! ### Reset and the invariant -/

/-- R410, R412: the values the spec gives at instance creation: RUN Idle, no result, an empty trace, no written mark, both
lifecycle flags false, no adapter call outstanding. -/
def Obligations.ResetValues : Prop :=
  State.reset.run = .idle ∧ State.reset.result = none ∧ State.reset.trace = [] ∧
    (∀ b, State.reset.cmdw.getLsbD b = false) ∧ State.reset.prepared = false ∧ State.reset.enabled = false ∧
    State.reset.wait = none

/-- The invariant holds at reset. Of the values State.reset has it uses some the spec does not give: a legal configuration and legal
parameters (the model's choice, logs 2 and 3), PC and CURSOR 0 (log 4), and buffers with nothing listed (log 5). -/
def Obligations.ResetSatisfiesInv : Prop := State.reset.Inv

/-- Every step keeps the invariant (R13, R31, R34, R36, R46, R47, R71, R77, R147, R202, R210): from every state that has it, a next
state has it: the buffers stay canonical and inside their sizes, CURSOR stays at most 512, 0 off SPI, 0 between the steps of a
byte-mode SPI program and 0 when a program ends with Done, no abort is Unaligned, PC stays inside the program, the configuration
stays legal, RESULT is there when a program has ended, and what is outstanding fits the state it is outstanding in. -/
def Obligations.StepKeepsInv : Prop :=
  ∀ (s t : State), s.Inv → step s = .next t → t.Inv
end

