-- ==== Sys2Proof/Laws/State.lean ====
section
/-! SUPPORT. One lemma for each field of each named update of the state, true by `rfl`, so that no proof unfolds a record
update. -/

namespace Sys2Proof.Machine

/-! ### `emit` -/

@[simp] theorem State.emit_bound (s : State) (e : Event) : (s.emit e).bound = s.bound := rfl
@[simp] theorem State.emit_cfg (s : State) (e : Event) : (s.emit e).cfg = s.cfg := rfl
@[simp] theorem State.emit_par (s : State) (e : Event) : (s.emit e).par = s.par := rfl
@[simp] theorem State.emit_pc (s : State) (e : Event) : (s.emit e).pc = s.pc := rfl
@[simp] theorem State.emit_skip (s : State) (e : Event) : (s.emit e).skip = s.skip := rfl
@[simp] theorem State.emit_matchSt (s : State) (e : Event) : (s.emit e).matchSt = s.matchSt := rfl
@[simp] theorem State.emit_cursor (s : State) (e : Event) : (s.emit e).cursor = s.cursor := rfl
@[simp] theorem State.emit_bus (s : State) (e : Event) : (s.emit e).bus = s.bus := rfl
@[simp] theorem State.emit_prog (s : State) (e : Event) : (s.emit e).prog = s.prog := rfl
@[simp] theorem State.emit_tx (s : State) (e : Event) : (s.emit e).tx = s.tx := rfl
@[simp] theorem State.emit_rx (s : State) (e : Event) : (s.emit e).rx = s.rx := rfl
@[simp] theorem State.emit_cmd (s : State) (e : Event) : (s.emit e).cmd = s.cmd := rfl
@[simp] theorem State.emit_cmdw (s : State) (e : Event) : (s.emit e).cmdw = s.cmdw := rfl
@[simp] theorem State.emit_run (s : State) (e : Event) : (s.emit e).run = s.run := rfl
@[simp] theorem State.emit_result (s : State) (e : Event) : (s.emit e).result = s.result := rfl
@[simp] theorem State.emit_trace (s : State) (e : Event) : (s.emit e).trace = s.trace ++ [e] := rfl
@[simp] theorem State.emit_prepared (s : State) (e : Event) : (s.emit e).prepared = s.prepared := rfl
@[simp] theorem State.emit_enabled (s : State) (e : Event) : (s.emit e).enabled = s.enabled := rfl
@[simp] theorem State.emit_triple (s : State) (e : Event) : (s.emit e).triple = s.triple := rfl
@[simp] theorem State.emit_reply (s : State) (e : Event) : (s.emit e).reply = s.reply := rfl
@[simp] theorem State.emit_failure (s : State) (e : Event) : (s.emit e).failure = s.failure := rfl
@[simp] theorem State.emit_stepAt (s : State) (e : Event) : (s.emit e).stepAt = s.stepAt := rfl
@[simp] theorem State.emit_wait (s : State) (e : Event) : (s.emit e).wait = s.wait := rfl
@[simp] theorem State.emit_answers (s : State) (e : Event) : (s.emit e).answers = s.answers := rfl
@[simp] theorem State.emit_wakes (s : State) (e : Event) : (s.emit e).wakes = s.wakes := rfl
@[simp] theorem State.emit_requests (s : State) (e : Event) : (s.emit e).requests = s.requests := rfl
@[simp] theorem State.emit_hostLog (s : State) (e : Event) : (s.emit e).hostLog = s.hostLog := rfl
@[simp] theorem State.emit_draws (s : State) (e : Event) : (s.emit e).draws = s.draws := rfl

/-! ### `await` -/

@[simp] theorem State.await_bound (s : State) (r : RunState) (w : Wait) : (s.await r w).bound = s.bound := rfl
@[simp] theorem State.await_cfg (s : State) (r : RunState) (w : Wait) : (s.await r w).cfg = s.cfg := rfl
@[simp] theorem State.await_par (s : State) (r : RunState) (w : Wait) : (s.await r w).par = s.par := rfl
@[simp] theorem State.await_pc (s : State) (r : RunState) (w : Wait) : (s.await r w).pc = s.pc := rfl
@[simp] theorem State.await_skip (s : State) (r : RunState) (w : Wait) : (s.await r w).skip = s.skip := rfl
@[simp] theorem State.await_matchSt (s : State) (r : RunState) (w : Wait) : (s.await r w).matchSt = s.matchSt := rfl
@[simp] theorem State.await_cursor (s : State) (r : RunState) (w : Wait) : (s.await r w).cursor = s.cursor := rfl
@[simp] theorem State.await_bus (s : State) (r : RunState) (w : Wait) : (s.await r w).bus = s.bus := rfl
@[simp] theorem State.await_prog (s : State) (r : RunState) (w : Wait) : (s.await r w).prog = s.prog := rfl
@[simp] theorem State.await_tx (s : State) (r : RunState) (w : Wait) : (s.await r w).tx = s.tx := rfl
@[simp] theorem State.await_rx (s : State) (r : RunState) (w : Wait) : (s.await r w).rx = s.rx := rfl
@[simp] theorem State.await_cmd (s : State) (r : RunState) (w : Wait) : (s.await r w).cmd = s.cmd := rfl
@[simp] theorem State.await_cmdw (s : State) (r : RunState) (w : Wait) : (s.await r w).cmdw = s.cmdw := rfl
@[simp] theorem State.await_run (s : State) (r : RunState) (w : Wait) : (s.await r w).run = r := rfl
@[simp] theorem State.await_result (s : State) (r : RunState) (w : Wait) : (s.await r w).result = s.result := rfl
@[simp] theorem State.await_trace (s : State) (r : RunState) (w : Wait) : (s.await r w).trace = s.trace := rfl
@[simp] theorem State.await_prepared (s : State) (r : RunState) (w : Wait) : (s.await r w).prepared = s.prepared := rfl
@[simp] theorem State.await_enabled (s : State) (r : RunState) (w : Wait) : (s.await r w).enabled = s.enabled := rfl
@[simp] theorem State.await_triple (s : State) (r : RunState) (w : Wait) : (s.await r w).triple = s.triple := rfl
@[simp] theorem State.await_reply (s : State) (r : RunState) (w : Wait) : (s.await r w).reply = s.reply := rfl
@[simp] theorem State.await_failure (s : State) (r : RunState) (w : Wait) : (s.await r w).failure = s.failure := rfl
@[simp] theorem State.await_stepAt (s : State) (r : RunState) (w : Wait) : (s.await r w).stepAt = s.stepAt := rfl
@[simp] theorem State.await_wait (s : State) (r : RunState) (w : Wait) : (s.await r w).wait = some w := rfl
@[simp] theorem State.await_answers (s : State) (r : RunState) (w : Wait) : (s.await r w).answers = s.answers := rfl
@[simp] theorem State.await_wakes (s : State) (r : RunState) (w : Wait) : (s.await r w).wakes = s.wakes := rfl
@[simp] theorem State.await_requests (s : State) (r : RunState) (w : Wait) : (s.await r w).requests = s.requests := rfl
@[simp] theorem State.await_hostLog (s : State) (r : RunState) (w : Wait) : (s.await r w).hostLog = s.hostLog := rfl
@[simp] theorem State.await_draws (s : State) (r : RunState) (w : Wait) : (s.await r w).draws = s.draws := rfl

/-! ### `abort` -/

@[simp] theorem State.abort_bound (s : State) (code : Result) (cause : Cause) :
    (s.abort code cause).bound = s.bound := rfl
@[simp] theorem State.abort_cfg (s : State) (code : Result) (cause : Cause) : (s.abort code cause).cfg = s.cfg := rfl
@[simp] theorem State.abort_par (s : State) (code : Result) (cause : Cause) : (s.abort code cause).par = s.par := rfl
@[simp] theorem State.abort_pc (s : State) (code : Result) (cause : Cause) : (s.abort code cause).pc = s.pc := rfl
@[simp] theorem State.abort_skip (s : State) (code : Result) (cause : Cause) :
    (s.abort code cause).skip = s.skip := rfl
@[simp] theorem State.abort_matchSt (s : State) (code : Result) (cause : Cause) :
    (s.abort code cause).matchSt = s.matchSt := rfl
@[simp] theorem State.abort_cursor (s : State) (code : Result) (cause : Cause) :
    (s.abort code cause).cursor = s.cursor := rfl
@[simp] theorem State.abort_bus (s : State) (code : Result) (cause : Cause) : (s.abort code cause).bus = s.bus := rfl
@[simp] theorem State.abort_prog (s : State) (code : Result) (cause : Cause) :
    (s.abort code cause).prog = s.prog := rfl
@[simp] theorem State.abort_tx (s : State) (code : Result) (cause : Cause) : (s.abort code cause).tx = s.tx := rfl
@[simp] theorem State.abort_rx (s : State) (code : Result) (cause : Cause) : (s.abort code cause).rx = s.rx := rfl
@[simp] theorem State.abort_cmd (s : State) (code : Result) (cause : Cause) : (s.abort code cause).cmd = s.cmd := rfl
@[simp] theorem State.abort_cmdw (s : State) (code : Result) (cause : Cause) :
    (s.abort code cause).cmdw = s.cmdw := rfl
@[simp] theorem State.abort_run (s : State) (code : Result) (cause : Cause) :
    (s.abort code cause).run = .aborted := rfl
@[simp] theorem State.abort_result (s : State) (code : Result) (cause : Cause) :
    (s.abort code cause).result = some code := rfl
@[simp] theorem State.abort_trace (s : State) (code : Result) (cause : Cause) :
    (s.abort code cause).trace = s.trace := rfl
@[simp] theorem State.abort_prepared (s : State) (code : Result) (cause : Cause) :
    (s.abort code cause).prepared = s.prepared := rfl
@[simp] theorem State.abort_enabled (s : State) (code : Result) (cause : Cause) :
    (s.abort code cause).enabled = s.enabled := rfl
@[simp] theorem State.abort_triple (s : State) (code : Result) (cause : Cause) :
    (s.abort code cause).triple = s.triple := rfl
@[simp] theorem State.abort_reply (s : State) (code : Result) (cause : Cause) :
    (s.abort code cause).reply = s.reply := rfl
@[simp] theorem State.abort_failure (s : State) (code : Result) (cause : Cause) :
    (s.abort code cause).failure = some ⟨cause, s.stepAt⟩ := rfl
@[simp] theorem State.abort_stepAt (s : State) (code : Result) (cause : Cause) :
    (s.abort code cause).stepAt = s.stepAt := rfl
@[simp] theorem State.abort_wait (s : State) (code : Result) (cause : Cause) :
    (s.abort code cause).wait = s.wait := rfl
@[simp] theorem State.abort_answers (s : State) (code : Result) (cause : Cause) :
    (s.abort code cause).answers = s.answers := rfl
@[simp] theorem State.abort_wakes (s : State) (code : Result) (cause : Cause) :
    (s.abort code cause).wakes = s.wakes := rfl
@[simp] theorem State.abort_requests (s : State) (code : Result) (cause : Cause) :
    (s.abort code cause).requests = s.requests := rfl
@[simp] theorem State.abort_hostLog (s : State) (code : Result) (cause : Cause) :
    (s.abort code cause).hostLog = s.hostLog := rfl
@[simp] theorem State.abort_draws (s : State) (code : Result) (cause : Cause) :
    (s.abort code cause).draws = s.draws := rfl

/-! ### `drew` -/

@[simp] theorem State.drew_bound (s : State) (n : Nat) : (s.drew n).bound = s.bound := rfl
@[simp] theorem State.drew_cfg (s : State) (n : Nat) : (s.drew n).cfg = s.cfg := rfl
@[simp] theorem State.drew_par (s : State) (n : Nat) : (s.drew n).par = s.par := rfl
@[simp] theorem State.drew_pc (s : State) (n : Nat) : (s.drew n).pc = s.pc := rfl
@[simp] theorem State.drew_skip (s : State) (n : Nat) : (s.drew n).skip = s.skip := rfl
@[simp] theorem State.drew_matchSt (s : State) (n : Nat) : (s.drew n).matchSt = s.matchSt := rfl
@[simp] theorem State.drew_cursor (s : State) (n : Nat) : (s.drew n).cursor = s.cursor := rfl
@[simp] theorem State.drew_bus (s : State) (n : Nat) : (s.drew n).bus = s.bus := rfl
@[simp] theorem State.drew_prog (s : State) (n : Nat) : (s.drew n).prog = s.prog := rfl
@[simp] theorem State.drew_tx (s : State) (n : Nat) : (s.drew n).tx = s.tx := rfl
@[simp] theorem State.drew_rx (s : State) (n : Nat) : (s.drew n).rx = s.rx := rfl
@[simp] theorem State.drew_cmd (s : State) (n : Nat) : (s.drew n).cmd = s.cmd := rfl
@[simp] theorem State.drew_cmdw (s : State) (n : Nat) : (s.drew n).cmdw = s.cmdw := rfl
@[simp] theorem State.drew_run (s : State) (n : Nat) : (s.drew n).run = s.run := rfl
@[simp] theorem State.drew_result (s : State) (n : Nat) : (s.drew n).result = s.result := rfl
@[simp] theorem State.drew_trace (s : State) (n : Nat) : (s.drew n).trace = s.trace := rfl
@[simp] theorem State.drew_prepared (s : State) (n : Nat) : (s.drew n).prepared = s.prepared := rfl
@[simp] theorem State.drew_enabled (s : State) (n : Nat) : (s.drew n).enabled = s.enabled := rfl
@[simp] theorem State.drew_triple (s : State) (n : Nat) : (s.drew n).triple = s.triple := rfl
@[simp] theorem State.drew_reply (s : State) (n : Nat) : (s.drew n).reply = s.reply := rfl
@[simp] theorem State.drew_failure (s : State) (n : Nat) : (s.drew n).failure = s.failure := rfl
@[simp] theorem State.drew_stepAt (s : State) (n : Nat) : (s.drew n).stepAt = s.stepAt := rfl
@[simp] theorem State.drew_wait (s : State) (n : Nat) : (s.drew n).wait = s.wait := rfl
@[simp] theorem State.drew_answers (s : State) (n : Nat) : (s.drew n).answers = s.answers := rfl
@[simp] theorem State.drew_wakes (s : State) (n : Nat) : (s.drew n).wakes = s.wakes := rfl
@[simp] theorem State.drew_requests (s : State) (n : Nat) : (s.drew n).requests = s.requests := rfl
@[simp] theorem State.drew_hostLog (s : State) (n : Nat) : (s.drew n).hostLog = s.hostLog := rfl
@[simp] theorem State.drew_draws (s : State) (n : Nat) : (s.drew n).draws = s.draws + n := rfl

/-! ### `programEntry` -/

@[simp] theorem State.programEntry_bound (s : State) (name : ProgName) (b : Bus) :
    (s.programEntry name b).bound = s.bound := rfl
@[simp] theorem State.programEntry_cfg (s : State) (name : ProgName) (b : Bus) :
    (s.programEntry name b).cfg = s.cfg := rfl
@[simp] theorem State.programEntry_par (s : State) (name : ProgName) (b : Bus) :
    (s.programEntry name b).par = s.par := rfl
@[simp] theorem State.programEntry_pc (s : State) (name : ProgName) (b : Bus) : (s.programEntry name b).pc = 0 := rfl
@[simp] theorem State.programEntry_skip (s : State) (name : ProgName) (b : Bus) :
    (s.programEntry name b).skip = false := rfl
@[simp] theorem State.programEntry_matchSt (s : State) (name : ProgName) (b : Bus) :
    (s.programEntry name b).matchSt = .ok := rfl
@[simp] theorem State.programEntry_cursor (s : State) (name : ProgName) (b : Bus) :
    (s.programEntry name b).cursor = 0 := rfl
@[simp] theorem State.programEntry_bus (s : State) (name : ProgName) (b : Bus) : (s.programEntry name b).bus = b := rfl
@[simp] theorem State.programEntry_prog (s : State) (name : ProgName) (b : Bus) :
    (s.programEntry name b).prog = name := rfl
@[simp] theorem State.programEntry_tx (s : State) (name : ProgName) (b : Bus) :
    (s.programEntry name b).tx = s.tx := rfl
@[simp] theorem State.programEntry_rx (s : State) (name : ProgName) (b : Bus) :
    (s.programEntry name b).rx = s.rx := rfl
@[simp] theorem State.programEntry_cmd (s : State) (name : ProgName) (b : Bus) :
    (s.programEntry name b).cmd = s.cmd := rfl
@[simp] theorem State.programEntry_cmdw (s : State) (name : ProgName) (b : Bus) :
    (s.programEntry name b).cmdw = 0 := rfl
@[simp] theorem State.programEntry_run (s : State) (name : ProgName) (b : Bus) :
    (s.programEntry name b).run = .running := rfl
@[simp] theorem State.programEntry_result (s : State) (name : ProgName) (b : Bus) :
    (s.programEntry name b).result = s.result := rfl
@[simp] theorem State.programEntry_trace (s : State) (name : ProgName) (b : Bus) :
    (s.programEntry name b).trace = s.trace := rfl
@[simp] theorem State.programEntry_prepared (s : State) (name : ProgName) (b : Bus) :
    (s.programEntry name b).prepared = s.prepared := rfl
@[simp] theorem State.programEntry_enabled (s : State) (name : ProgName) (b : Bus) :
    (s.programEntry name b).enabled = s.enabled := rfl
@[simp] theorem State.programEntry_triple (s : State) (name : ProgName) (b : Bus) :
    (s.programEntry name b).triple = s.triple := rfl
@[simp] theorem State.programEntry_reply (s : State) (name : ProgName) (b : Bus) :
    (s.programEntry name b).reply = s.reply := rfl
@[simp] theorem State.programEntry_failure (s : State) (name : ProgName) (b : Bus) :
    (s.programEntry name b).failure = s.failure := rfl
@[simp] theorem State.programEntry_stepAt (s : State) (name : ProgName) (b : Bus) :
    (s.programEntry name b).stepAt = 0 := rfl
@[simp] theorem State.programEntry_wait (s : State) (name : ProgName) (b : Bus) :
    (s.programEntry name b).wait = s.wait := rfl
@[simp] theorem State.programEntry_answers (s : State) (name : ProgName) (b : Bus) :
    (s.programEntry name b).answers = s.answers := rfl
@[simp] theorem State.programEntry_wakes (s : State) (name : ProgName) (b : Bus) :
    (s.programEntry name b).wakes = s.wakes := rfl
@[simp] theorem State.programEntry_requests (s : State) (name : ProgName) (b : Bus) :
    (s.programEntry name b).requests = s.requests := rfl
@[simp] theorem State.programEntry_hostLog (s : State) (name : ProgName) (b : Bus) :
    (s.programEntry name b).hostLog = s.hostLog := rfl
@[simp] theorem State.programEntry_draws (s : State) (name : ProgName) (b : Bus) :
    (s.programEntry name b).draws = s.draws := rfl

/-! ### `act` -/

@[simp] theorem State.act_bound (s : State) (l : List HostAct) : (s.act l).bound = s.bound := rfl
@[simp] theorem State.act_cfg (s : State) (l : List HostAct) : (s.act l).cfg = s.cfg := rfl
@[simp] theorem State.act_par (s : State) (l : List HostAct) : (s.act l).par = s.par := rfl
@[simp] theorem State.act_pc (s : State) (l : List HostAct) : (s.act l).pc = s.pc := rfl
@[simp] theorem State.act_skip (s : State) (l : List HostAct) : (s.act l).skip = s.skip := rfl
@[simp] theorem State.act_matchSt (s : State) (l : List HostAct) : (s.act l).matchSt = s.matchSt := rfl
@[simp] theorem State.act_cursor (s : State) (l : List HostAct) : (s.act l).cursor = s.cursor := rfl
@[simp] theorem State.act_bus (s : State) (l : List HostAct) : (s.act l).bus = s.bus := rfl
@[simp] theorem State.act_prog (s : State) (l : List HostAct) : (s.act l).prog = s.prog := rfl
@[simp] theorem State.act_tx (s : State) (l : List HostAct) : (s.act l).tx = s.tx := rfl
@[simp] theorem State.act_rx (s : State) (l : List HostAct) : (s.act l).rx = s.rx := rfl
@[simp] theorem State.act_cmd (s : State) (l : List HostAct) : (s.act l).cmd = s.cmd := rfl
@[simp] theorem State.act_cmdw (s : State) (l : List HostAct) : (s.act l).cmdw = s.cmdw := rfl
@[simp] theorem State.act_run (s : State) (l : List HostAct) : (s.act l).run = s.run := rfl
@[simp] theorem State.act_result (s : State) (l : List HostAct) : (s.act l).result = s.result := rfl
@[simp] theorem State.act_trace (s : State) (l : List HostAct) : (s.act l).trace = s.trace := rfl
@[simp] theorem State.act_prepared (s : State) (l : List HostAct) : (s.act l).prepared = s.prepared := rfl
@[simp] theorem State.act_enabled (s : State) (l : List HostAct) : (s.act l).enabled = s.enabled := rfl
@[simp] theorem State.act_triple (s : State) (l : List HostAct) : (s.act l).triple = s.triple := rfl
@[simp] theorem State.act_reply (s : State) (l : List HostAct) : (s.act l).reply = s.reply := rfl
@[simp] theorem State.act_failure (s : State) (l : List HostAct) : (s.act l).failure = s.failure := rfl
@[simp] theorem State.act_stepAt (s : State) (l : List HostAct) : (s.act l).stepAt = s.stepAt := rfl
@[simp] theorem State.act_wait (s : State) (l : List HostAct) : (s.act l).wait = s.wait := rfl
@[simp] theorem State.act_answers (s : State) (l : List HostAct) : (s.act l).answers = s.answers := rfl
@[simp] theorem State.act_wakes (s : State) (l : List HostAct) : (s.act l).wakes = s.wakes := rfl
@[simp] theorem State.act_requests (s : State) (l : List HostAct) : (s.act l).requests = s.requests := rfl
@[simp] theorem State.act_hostLog (s : State) (l : List HostAct) : (s.act l).hostLog = s.hostLog ++ l := rfl
@[simp] theorem State.act_draws (s : State) (l : List HostAct) : (s.act l).draws = s.draws := rfl

/-! ### `laneSkip` -/

@[simp] theorem laneSkip_bound (k : Nat) (s : State) : (laneSkip k s).bound = s.bound := rfl
@[simp] theorem laneSkip_cfg (k : Nat) (s : State) : (laneSkip k s).cfg = s.cfg := rfl
@[simp] theorem laneSkip_par (k : Nat) (s : State) : (laneSkip k s).par = s.par := rfl
@[simp] theorem laneSkip_pc (k : Nat) (s : State) : (laneSkip k s).pc = s.pc := rfl
@[simp] theorem laneSkip_skip (k : Nat) (s : State) :
    (laneSkip k s).skip = if s.cfg.dsiLanes = k then s.skip else true := rfl
@[simp] theorem laneSkip_matchSt (k : Nat) (s : State) : (laneSkip k s).matchSt = s.matchSt := rfl
@[simp] theorem laneSkip_cursor (k : Nat) (s : State) : (laneSkip k s).cursor = s.cursor := rfl
@[simp] theorem laneSkip_bus (k : Nat) (s : State) : (laneSkip k s).bus = s.bus := rfl
@[simp] theorem laneSkip_prog (k : Nat) (s : State) : (laneSkip k s).prog = s.prog := rfl
@[simp] theorem laneSkip_tx (k : Nat) (s : State) : (laneSkip k s).tx = s.tx := rfl
@[simp] theorem laneSkip_rx (k : Nat) (s : State) : (laneSkip k s).rx = s.rx := rfl
@[simp] theorem laneSkip_cmd (k : Nat) (s : State) : (laneSkip k s).cmd = s.cmd := rfl
@[simp] theorem laneSkip_cmdw (k : Nat) (s : State) : (laneSkip k s).cmdw = s.cmdw := rfl
@[simp] theorem laneSkip_run (k : Nat) (s : State) : (laneSkip k s).run = s.run := rfl
@[simp] theorem laneSkip_result (k : Nat) (s : State) : (laneSkip k s).result = s.result := rfl
@[simp] theorem laneSkip_trace (k : Nat) (s : State) : (laneSkip k s).trace = s.trace := rfl
@[simp] theorem laneSkip_prepared (k : Nat) (s : State) : (laneSkip k s).prepared = s.prepared := rfl
@[simp] theorem laneSkip_enabled (k : Nat) (s : State) : (laneSkip k s).enabled = s.enabled := rfl
@[simp] theorem laneSkip_triple (k : Nat) (s : State) : (laneSkip k s).triple = s.triple := rfl
@[simp] theorem laneSkip_reply (k : Nat) (s : State) : (laneSkip k s).reply = s.reply := rfl
@[simp] theorem laneSkip_failure (k : Nat) (s : State) : (laneSkip k s).failure = s.failure := rfl
@[simp] theorem laneSkip_stepAt (k : Nat) (s : State) : (laneSkip k s).stepAt = s.stepAt := rfl
@[simp] theorem laneSkip_wait (k : Nat) (s : State) : (laneSkip k s).wait = s.wait := rfl
@[simp] theorem laneSkip_answers (k : Nat) (s : State) : (laneSkip k s).answers = s.answers := rfl
@[simp] theorem laneSkip_wakes (k : Nat) (s : State) : (laneSkip k s).wakes = s.wakes := rfl
@[simp] theorem laneSkip_requests (k : Nat) (s : State) : (laneSkip k s).requests = s.requests := rfl
@[simp] theorem laneSkip_hostLog (k : Nat) (s : State) : (laneSkip k s).hostLog = s.hostLog := rfl
@[simp] theorem laneSkip_draws (k : Nat) (s : State) : (laneSkip k s).draws = s.draws := rfl

/-! ### `recordMatch` -/

@[simp] theorem recordMatch_bound (d : List Byte) (k : Nat) (e : List Byte) (s : State) :
    (recordMatch d k e s).bound = s.bound := rfl
@[simp] theorem recordMatch_cfg (d : List Byte) (k : Nat) (e : List Byte) (s : State) :
    (recordMatch d k e s).cfg = s.cfg := rfl
@[simp] theorem recordMatch_par (d : List Byte) (k : Nat) (e : List Byte) (s : State) :
    (recordMatch d k e s).par = s.par := rfl
@[simp] theorem recordMatch_pc (d : List Byte) (k : Nat) (e : List Byte) (s : State) :
    (recordMatch d k e s).pc = s.pc := rfl
@[simp] theorem recordMatch_skip (d : List Byte) (k : Nat) (e : List Byte) (s : State) :
    (recordMatch d k e s).skip = s.skip := rfl
@[simp] theorem recordMatch_matchSt (d : List Byte) (k : Nat) (e : List Byte) (s : State) :
    (recordMatch d k e s).matchSt = if equalLE d e k then s.matchSt else .mismatch := rfl
@[simp] theorem recordMatch_cursor (d : List Byte) (k : Nat) (e : List Byte) (s : State) :
    (recordMatch d k e s).cursor = s.cursor := rfl
@[simp] theorem recordMatch_bus (d : List Byte) (k : Nat) (e : List Byte) (s : State) :
    (recordMatch d k e s).bus = s.bus := rfl
@[simp] theorem recordMatch_prog (d : List Byte) (k : Nat) (e : List Byte) (s : State) :
    (recordMatch d k e s).prog = s.prog := rfl
@[simp] theorem recordMatch_tx (d : List Byte) (k : Nat) (e : List Byte) (s : State) :
    (recordMatch d k e s).tx = s.tx := rfl
@[simp] theorem recordMatch_rx (d : List Byte) (k : Nat) (e : List Byte) (s : State) :
    (recordMatch d k e s).rx = s.rx := rfl
@[simp] theorem recordMatch_cmd (d : List Byte) (k : Nat) (e : List Byte) (s : State) :
    (recordMatch d k e s).cmd = s.cmd := rfl
@[simp] theorem recordMatch_cmdw (d : List Byte) (k : Nat) (e : List Byte) (s : State) :
    (recordMatch d k e s).cmdw = s.cmdw := rfl
@[simp] theorem recordMatch_run (d : List Byte) (k : Nat) (e : List Byte) (s : State) :
    (recordMatch d k e s).run = s.run := rfl
@[simp] theorem recordMatch_result (d : List Byte) (k : Nat) (e : List Byte) (s : State) :
    (recordMatch d k e s).result = s.result := rfl
@[simp] theorem recordMatch_trace (d : List Byte) (k : Nat) (e : List Byte) (s : State) :
    (recordMatch d k e s).trace = s.trace := rfl
@[simp] theorem recordMatch_prepared (d : List Byte) (k : Nat) (e : List Byte) (s : State) :
    (recordMatch d k e s).prepared = s.prepared := rfl
@[simp] theorem recordMatch_enabled (d : List Byte) (k : Nat) (e : List Byte) (s : State) :
    (recordMatch d k e s).enabled = s.enabled := rfl
@[simp] theorem recordMatch_triple (d : List Byte) (k : Nat) (e : List Byte) (s : State) :
    (recordMatch d k e s).triple = s.triple := rfl
@[simp] theorem recordMatch_reply (d : List Byte) (k : Nat) (e : List Byte) (s : State) :
    (recordMatch d k e s).reply = s.reply := rfl
@[simp] theorem recordMatch_failure (d : List Byte) (k : Nat) (e : List Byte) (s : State) :
    (recordMatch d k e s).failure = s.failure := rfl
@[simp] theorem recordMatch_stepAt (d : List Byte) (k : Nat) (e : List Byte) (s : State) :
    (recordMatch d k e s).stepAt = s.stepAt := rfl
@[simp] theorem recordMatch_wait (d : List Byte) (k : Nat) (e : List Byte) (s : State) :
    (recordMatch d k e s).wait = s.wait := rfl
@[simp] theorem recordMatch_answers (d : List Byte) (k : Nat) (e : List Byte) (s : State) :
    (recordMatch d k e s).answers = s.answers := rfl
@[simp] theorem recordMatch_wakes (d : List Byte) (k : Nat) (e : List Byte) (s : State) :
    (recordMatch d k e s).wakes = s.wakes := rfl
@[simp] theorem recordMatch_requests (d : List Byte) (k : Nat) (e : List Byte) (s : State) :
    (recordMatch d k e s).requests = s.requests := rfl
@[simp] theorem recordMatch_hostLog (d : List Byte) (k : Nat) (e : List Byte) (s : State) :
    (recordMatch d k e s).hostLog = s.hostLog := rfl
@[simp] theorem recordMatch_draws (d : List Byte) (k : Nat) (e : List Byte) (s : State) :
    (recordMatch d k e s).draws = s.draws := rfl

/-! ### `putBit` -/

@[simp] theorem putBit_bound (x : Bool) (s : State) : (putBit x s).bound = s.bound := rfl
@[simp] theorem putBit_cfg (x : Bool) (s : State) : (putBit x s).cfg = s.cfg := rfl
@[simp] theorem putBit_par (x : Bool) (s : State) : (putBit x s).par = s.par := rfl
@[simp] theorem putBit_pc (x : Bool) (s : State) : (putBit x s).pc = s.pc := rfl
@[simp] theorem putBit_skip (x : Bool) (s : State) : (putBit x s).skip = s.skip := rfl
@[simp] theorem putBit_matchSt (x : Bool) (s : State) : (putBit x s).matchSt = s.matchSt := rfl
@[simp] theorem putBit_cursor (x : Bool) (s : State) : (putBit x s).cursor = s.cursor + 1 := rfl
@[simp] theorem putBit_bus (x : Bool) (s : State) : (putBit x s).bus = s.bus := rfl
@[simp] theorem putBit_prog (x : Bool) (s : State) : (putBit x s).prog = s.prog := rfl
@[simp] theorem putBit_tx (x : Bool) (s : State) :
    (putBit x s).tx = s.tx.write (s.cursor / 8) (setBit (s.tx.read (s.cursor / 8)) (7 - s.cursor % 8) x) := rfl
@[simp] theorem putBit_rx (x : Bool) (s : State) : (putBit x s).rx = s.rx := rfl
@[simp] theorem putBit_cmd (x : Bool) (s : State) : (putBit x s).cmd = s.cmd := rfl
@[simp] theorem putBit_cmdw (x : Bool) (s : State) : (putBit x s).cmdw = s.cmdw := rfl
@[simp] theorem putBit_run (x : Bool) (s : State) : (putBit x s).run = s.run := rfl
@[simp] theorem putBit_result (x : Bool) (s : State) : (putBit x s).result = s.result := rfl
@[simp] theorem putBit_trace (x : Bool) (s : State) : (putBit x s).trace = s.trace := rfl
@[simp] theorem putBit_prepared (x : Bool) (s : State) : (putBit x s).prepared = s.prepared := rfl
@[simp] theorem putBit_enabled (x : Bool) (s : State) : (putBit x s).enabled = s.enabled := rfl
@[simp] theorem putBit_triple (x : Bool) (s : State) : (putBit x s).triple = s.triple := rfl
@[simp] theorem putBit_reply (x : Bool) (s : State) : (putBit x s).reply = s.reply := rfl
@[simp] theorem putBit_failure (x : Bool) (s : State) : (putBit x s).failure = s.failure := rfl
@[simp] theorem putBit_stepAt (x : Bool) (s : State) : (putBit x s).stepAt = s.stepAt := rfl
@[simp] theorem putBit_wait (x : Bool) (s : State) : (putBit x s).wait = s.wait := rfl
@[simp] theorem putBit_answers (x : Bool) (s : State) : (putBit x s).answers = s.answers := rfl
@[simp] theorem putBit_wakes (x : Bool) (s : State) : (putBit x s).wakes = s.wakes := rfl
@[simp] theorem putBit_requests (x : Bool) (s : State) : (putBit x s).requests = s.requests := rfl
@[simp] theorem putBit_hostLog (x : Bool) (s : State) : (putBit x s).hostLog = s.hostLog := rfl
@[simp] theorem putBit_draws (x : Bool) (s : State) : (putBit x s).draws = s.draws := rfl

/-! ### `setCmdBit` -/

@[simp] theorem setCmdBit_bound (b : Nat) (x : Bool) (s : State) : (setCmdBit b x s).bound = s.bound := rfl
@[simp] theorem setCmdBit_cfg (b : Nat) (x : Bool) (s : State) : (setCmdBit b x s).cfg = s.cfg := rfl
@[simp] theorem setCmdBit_par (b : Nat) (x : Bool) (s : State) : (setCmdBit b x s).par = s.par := rfl
@[simp] theorem setCmdBit_pc (b : Nat) (x : Bool) (s : State) : (setCmdBit b x s).pc = s.pc := rfl
@[simp] theorem setCmdBit_skip (b : Nat) (x : Bool) (s : State) : (setCmdBit b x s).skip = s.skip := rfl
@[simp] theorem setCmdBit_matchSt (b : Nat) (x : Bool) (s : State) : (setCmdBit b x s).matchSt = s.matchSt := rfl
@[simp] theorem setCmdBit_cursor (b : Nat) (x : Bool) (s : State) : (setCmdBit b x s).cursor = s.cursor := rfl
@[simp] theorem setCmdBit_bus (b : Nat) (x : Bool) (s : State) : (setCmdBit b x s).bus = s.bus := rfl
@[simp] theorem setCmdBit_prog (b : Nat) (x : Bool) (s : State) : (setCmdBit b x s).prog = s.prog := rfl
@[simp] theorem setCmdBit_tx (b : Nat) (x : Bool) (s : State) : (setCmdBit b x s).tx = s.tx := rfl
@[simp] theorem setCmdBit_rx (b : Nat) (x : Bool) (s : State) : (setCmdBit b x s).rx = s.rx := rfl
@[simp] theorem setCmdBit_cmd (b : Nat) (x : Bool) (s : State) :
    (setCmdBit b x s).cmd = s.cmd.write (b / 8) (setBit (s.cmd.read (b / 8)) (b % 8) x) := rfl
@[simp] theorem setCmdBit_cmdw (b : Nat) (x : Bool) (s : State) :
    (setCmdBit b x s).cmdw = s.cmdw ||| (1#256 <<< b) := rfl
@[simp] theorem setCmdBit_run (b : Nat) (x : Bool) (s : State) : (setCmdBit b x s).run = s.run := rfl
@[simp] theorem setCmdBit_result (b : Nat) (x : Bool) (s : State) : (setCmdBit b x s).result = s.result := rfl
@[simp] theorem setCmdBit_trace (b : Nat) (x : Bool) (s : State) : (setCmdBit b x s).trace = s.trace := rfl
@[simp] theorem setCmdBit_prepared (b : Nat) (x : Bool) (s : State) : (setCmdBit b x s).prepared = s.prepared := rfl
@[simp] theorem setCmdBit_enabled (b : Nat) (x : Bool) (s : State) : (setCmdBit b x s).enabled = s.enabled := rfl
@[simp] theorem setCmdBit_triple (b : Nat) (x : Bool) (s : State) : (setCmdBit b x s).triple = s.triple := rfl
@[simp] theorem setCmdBit_reply (b : Nat) (x : Bool) (s : State) : (setCmdBit b x s).reply = s.reply := rfl
@[simp] theorem setCmdBit_failure (b : Nat) (x : Bool) (s : State) : (setCmdBit b x s).failure = s.failure := rfl
@[simp] theorem setCmdBit_stepAt (b : Nat) (x : Bool) (s : State) : (setCmdBit b x s).stepAt = s.stepAt := rfl
@[simp] theorem setCmdBit_wait (b : Nat) (x : Bool) (s : State) : (setCmdBit b x s).wait = s.wait := rfl
@[simp] theorem setCmdBit_answers (b : Nat) (x : Bool) (s : State) : (setCmdBit b x s).answers = s.answers := rfl
@[simp] theorem setCmdBit_wakes (b : Nat) (x : Bool) (s : State) : (setCmdBit b x s).wakes = s.wakes := rfl
@[simp] theorem setCmdBit_requests (b : Nat) (x : Bool) (s : State) : (setCmdBit b x s).requests = s.requests := rfl
@[simp] theorem setCmdBit_hostLog (b : Nat) (x : Bool) (s : State) : (setCmdBit b x s).hostLog = s.hostLog := rfl
@[simp] theorem setCmdBit_draws (b : Nat) (x : Bool) (s : State) : (setCmdBit b x s).draws = s.draws := rfl

/-! ### `finish` -/

@[simp] theorem finish_bound (s : State) : (finish s).bound = s.bound := rfl
@[simp] theorem finish_cfg (s : State) : (finish s).cfg = s.cfg := rfl
@[simp] theorem finish_par (s : State) : (finish s).par = s.par := rfl
@[simp] theorem finish_pc (s : State) : (finish s).pc = s.pc := rfl
@[simp] theorem finish_skip (s : State) : (finish s).skip = s.skip := rfl
@[simp] theorem finish_matchSt (s : State) : (finish s).matchSt = s.matchSt := rfl
@[simp] theorem finish_cursor (s : State) : (finish s).cursor = s.cursor := rfl
@[simp] theorem finish_bus (s : State) : (finish s).bus = s.bus := rfl
@[simp] theorem finish_prog (s : State) : (finish s).prog = s.prog := rfl
@[simp] theorem finish_tx (s : State) : (finish s).tx = s.tx := rfl
@[simp] theorem finish_rx (s : State) : (finish s).rx = s.rx := rfl
@[simp] theorem finish_cmd (s : State) : (finish s).cmd = s.cmd := rfl
@[simp] theorem finish_cmdw (s : State) : (finish s).cmdw = s.cmdw := rfl
@[simp] theorem finish_run (s : State) : (finish s).run = .done := rfl
@[simp] theorem finish_result (s : State) :
    (finish s).result = some (if s.matchSt = .mismatch then .mismatch else .ok) := rfl
@[simp] theorem finish_trace (s : State) : (finish s).trace = s.trace := rfl
@[simp] theorem finish_prepared (s : State) : (finish s).prepared = s.prepared := rfl
@[simp] theorem finish_enabled (s : State) : (finish s).enabled = s.enabled := rfl
@[simp] theorem finish_triple (s : State) : (finish s).triple = s.triple := rfl
@[simp] theorem finish_reply (s : State) : (finish s).reply = s.reply := rfl
@[simp] theorem finish_failure (s : State) : (finish s).failure = s.failure := rfl
@[simp] theorem finish_stepAt (s : State) : (finish s).stepAt = s.stepAt := rfl
@[simp] theorem finish_wait (s : State) : (finish s).wait = s.wait := rfl
@[simp] theorem finish_answers (s : State) : (finish s).answers = s.answers := rfl
@[simp] theorem finish_wakes (s : State) : (finish s).wakes = s.wakes := rfl
@[simp] theorem finish_requests (s : State) : (finish s).requests = s.requests := rfl
@[simp] theorem finish_hostLog (s : State) : (finish s).hostLog = s.hostLog := rfl
@[simp] theorem finish_draws (s : State) : (finish s).draws = s.draws := rfl

/-! ### Bits put one after another -/

@[simp] theorem putBits_bound (l : List Bool) (s : State) : (putBits l s).bound = s.bound := by
  induction l generalizing s with
  | nil => rfl
  | cons x r ih => simp [putBits, ih]
@[simp] theorem putBits_cfg (l : List Bool) (s : State) : (putBits l s).cfg = s.cfg := by
  induction l generalizing s with
  | nil => rfl
  | cons x r ih => simp [putBits, ih]
@[simp] theorem putBits_par (l : List Bool) (s : State) : (putBits l s).par = s.par := by
  induction l generalizing s with
  | nil => rfl
  | cons x r ih => simp [putBits, ih]
@[simp] theorem putBits_pc (l : List Bool) (s : State) : (putBits l s).pc = s.pc := by
  induction l generalizing s with
  | nil => rfl
  | cons x r ih => simp [putBits, ih]
@[simp] theorem putBits_skip (l : List Bool) (s : State) : (putBits l s).skip = s.skip := by
  induction l generalizing s with
  | nil => rfl
  | cons x r ih => simp [putBits, ih]
@[simp] theorem putBits_matchSt (l : List Bool) (s : State) : (putBits l s).matchSt = s.matchSt := by
  induction l generalizing s with
  | nil => rfl
  | cons x r ih => simp [putBits, ih]
@[simp] theorem putBits_bus (l : List Bool) (s : State) : (putBits l s).bus = s.bus := by
  induction l generalizing s with
  | nil => rfl
  | cons x r ih => simp [putBits, ih]
@[simp] theorem putBits_prog (l : List Bool) (s : State) : (putBits l s).prog = s.prog := by
  induction l generalizing s with
  | nil => rfl
  | cons x r ih => simp [putBits, ih]
@[simp] theorem putBits_rx (l : List Bool) (s : State) : (putBits l s).rx = s.rx := by
  induction l generalizing s with
  | nil => rfl
  | cons x r ih => simp [putBits, ih]
@[simp] theorem putBits_cmd (l : List Bool) (s : State) : (putBits l s).cmd = s.cmd := by
  induction l generalizing s with
  | nil => rfl
  | cons x r ih => simp [putBits, ih]
@[simp] theorem putBits_cmdw (l : List Bool) (s : State) : (putBits l s).cmdw = s.cmdw := by
  induction l generalizing s with
  | nil => rfl
  | cons x r ih => simp [putBits, ih]
@[simp] theorem putBits_run (l : List Bool) (s : State) : (putBits l s).run = s.run := by
  induction l generalizing s with
  | nil => rfl
  | cons x r ih => simp [putBits, ih]
@[simp] theorem putBits_result (l : List Bool) (s : State) : (putBits l s).result = s.result := by
  induction l generalizing s with
  | nil => rfl
  | cons x r ih => simp [putBits, ih]
@[simp] theorem putBits_trace (l : List Bool) (s : State) : (putBits l s).trace = s.trace := by
  induction l generalizing s with
  | nil => rfl
  | cons x r ih => simp [putBits, ih]
@[simp] theorem putBits_prepared (l : List Bool) (s : State) : (putBits l s).prepared = s.prepared := by
  induction l generalizing s with
  | nil => rfl
  | cons x r ih => simp [putBits, ih]
@[simp] theorem putBits_enabled (l : List Bool) (s : State) : (putBits l s).enabled = s.enabled := by
  induction l generalizing s with
  | nil => rfl
  | cons x r ih => simp [putBits, ih]
@[simp] theorem putBits_triple (l : List Bool) (s : State) : (putBits l s).triple = s.triple := by
  induction l generalizing s with
  | nil => rfl
  | cons x r ih => simp [putBits, ih]
@[simp] theorem putBits_reply (l : List Bool) (s : State) : (putBits l s).reply = s.reply := by
  induction l generalizing s with
  | nil => rfl
  | cons x r ih => simp [putBits, ih]
@[simp] theorem putBits_failure (l : List Bool) (s : State) : (putBits l s).failure = s.failure := by
  induction l generalizing s with
  | nil => rfl
  | cons x r ih => simp [putBits, ih]
@[simp] theorem putBits_stepAt (l : List Bool) (s : State) : (putBits l s).stepAt = s.stepAt := by
  induction l generalizing s with
  | nil => rfl
  | cons x r ih => simp [putBits, ih]
@[simp] theorem putBits_wait (l : List Bool) (s : State) : (putBits l s).wait = s.wait := by
  induction l generalizing s with
  | nil => rfl
  | cons x r ih => simp [putBits, ih]
@[simp] theorem putBits_answers (l : List Bool) (s : State) : (putBits l s).answers = s.answers := by
  induction l generalizing s with
  | nil => rfl
  | cons x r ih => simp [putBits, ih]
@[simp] theorem putBits_wakes (l : List Bool) (s : State) : (putBits l s).wakes = s.wakes := by
  induction l generalizing s with
  | nil => rfl
  | cons x r ih => simp [putBits, ih]
@[simp] theorem putBits_requests (l : List Bool) (s : State) : (putBits l s).requests = s.requests := by
  induction l generalizing s with
  | nil => rfl
  | cons x r ih => simp [putBits, ih]
@[simp] theorem putBits_hostLog (l : List Bool) (s : State) : (putBits l s).hostLog = s.hostLog := by
  induction l generalizing s with
  | nil => rfl
  | cons x r ih => simp [putBits, ih]
@[simp] theorem putBits_draws (l : List Bool) (s : State) : (putBits l s).draws = s.draws := by
  induction l generalizing s with
  | nil => rfl
  | cons x r ih => simp [putBits, ih]
@[simp] theorem putBits_cursor (l : List Bool) (s : State) : (putBits l s).cursor = s.cursor + l.length := by
  induction l generalizing s with
  | nil => rfl
  | cons x r ih => simp [putBits, ih]; omega
@[simp] theorem setCmdBits_bound (b : Nat) (l : List Bool) (s : State) : (setCmdBits b l s).bound = s.bound := by
  induction l generalizing b s with
  | nil => rfl
  | cons x r ih => simp [setCmdBits, ih]
@[simp] theorem setCmdBits_cfg (b : Nat) (l : List Bool) (s : State) : (setCmdBits b l s).cfg = s.cfg := by
  induction l generalizing b s with
  | nil => rfl
  | cons x r ih => simp [setCmdBits, ih]
@[simp] theorem setCmdBits_par (b : Nat) (l : List Bool) (s : State) : (setCmdBits b l s).par = s.par := by
  induction l generalizing b s with
  | nil => rfl
  | cons x r ih => simp [setCmdBits, ih]
@[simp] theorem setCmdBits_pc (b : Nat) (l : List Bool) (s : State) : (setCmdBits b l s).pc = s.pc := by
  induction l generalizing b s with
  | nil => rfl
  | cons x r ih => simp [setCmdBits, ih]
@[simp] theorem setCmdBits_skip (b : Nat) (l : List Bool) (s : State) : (setCmdBits b l s).skip = s.skip := by
  induction l generalizing b s with
  | nil => rfl
  | cons x r ih => simp [setCmdBits, ih]
@[simp] theorem setCmdBits_matchSt (b : Nat) (l : List Bool) (s : State) : (setCmdBits b l s).matchSt = s.matchSt := by
  induction l generalizing b s with
  | nil => rfl
  | cons x r ih => simp [setCmdBits, ih]
@[simp] theorem setCmdBits_cursor (b : Nat) (l : List Bool) (s : State) : (setCmdBits b l s).cursor = s.cursor := by
  induction l generalizing b s with
  | nil => rfl
  | cons x r ih => simp [setCmdBits, ih]
@[simp] theorem setCmdBits_bus (b : Nat) (l : List Bool) (s : State) : (setCmdBits b l s).bus = s.bus := by
  induction l generalizing b s with
  | nil => rfl
  | cons x r ih => simp [setCmdBits, ih]
@[simp] theorem setCmdBits_prog (b : Nat) (l : List Bool) (s : State) : (setCmdBits b l s).prog = s.prog := by
  induction l generalizing b s with
  | nil => rfl
  | cons x r ih => simp [setCmdBits, ih]
@[simp] theorem setCmdBits_tx (b : Nat) (l : List Bool) (s : State) : (setCmdBits b l s).tx = s.tx := by
  induction l generalizing b s with
  | nil => rfl
  | cons x r ih => simp [setCmdBits, ih]
@[simp] theorem setCmdBits_rx (b : Nat) (l : List Bool) (s : State) : (setCmdBits b l s).rx = s.rx := by
  induction l generalizing b s with
  | nil => rfl
  | cons x r ih => simp [setCmdBits, ih]
@[simp] theorem setCmdBits_run (b : Nat) (l : List Bool) (s : State) : (setCmdBits b l s).run = s.run := by
  induction l generalizing b s with
  | nil => rfl
  | cons x r ih => simp [setCmdBits, ih]
@[simp] theorem setCmdBits_result (b : Nat) (l : List Bool) (s : State) : (setCmdBits b l s).result = s.result := by
  induction l generalizing b s with
  | nil => rfl
  | cons x r ih => simp [setCmdBits, ih]
@[simp] theorem setCmdBits_trace (b : Nat) (l : List Bool) (s : State) : (setCmdBits b l s).trace = s.trace := by
  induction l generalizing b s with
  | nil => rfl
  | cons x r ih => simp [setCmdBits, ih]
@[simp] theorem setCmdBits_prepared (b : Nat) (l : List Bool) (s : State) : (setCmdBits b l s).prepared = s.prepared := by
  induction l generalizing b s with
  | nil => rfl
  | cons x r ih => simp [setCmdBits, ih]
@[simp] theorem setCmdBits_enabled (b : Nat) (l : List Bool) (s : State) : (setCmdBits b l s).enabled = s.enabled := by
  induction l generalizing b s with
  | nil => rfl
  | cons x r ih => simp [setCmdBits, ih]
@[simp] theorem setCmdBits_triple (b : Nat) (l : List Bool) (s : State) : (setCmdBits b l s).triple = s.triple := by
  induction l generalizing b s with
  | nil => rfl
  | cons x r ih => simp [setCmdBits, ih]
@[simp] theorem setCmdBits_reply (b : Nat) (l : List Bool) (s : State) : (setCmdBits b l s).reply = s.reply := by
  induction l generalizing b s with
  | nil => rfl
  | cons x r ih => simp [setCmdBits, ih]
@[simp] theorem setCmdBits_failure (b : Nat) (l : List Bool) (s : State) : (setCmdBits b l s).failure = s.failure := by
  induction l generalizing b s with
  | nil => rfl
  | cons x r ih => simp [setCmdBits, ih]
@[simp] theorem setCmdBits_stepAt (b : Nat) (l : List Bool) (s : State) : (setCmdBits b l s).stepAt = s.stepAt := by
  induction l generalizing b s with
  | nil => rfl
  | cons x r ih => simp [setCmdBits, ih]
@[simp] theorem setCmdBits_wait (b : Nat) (l : List Bool) (s : State) : (setCmdBits b l s).wait = s.wait := by
  induction l generalizing b s with
  | nil => rfl
  | cons x r ih => simp [setCmdBits, ih]
@[simp] theorem setCmdBits_answers (b : Nat) (l : List Bool) (s : State) : (setCmdBits b l s).answers = s.answers := by
  induction l generalizing b s with
  | nil => rfl
  | cons x r ih => simp [setCmdBits, ih]
@[simp] theorem setCmdBits_wakes (b : Nat) (l : List Bool) (s : State) : (setCmdBits b l s).wakes = s.wakes := by
  induction l generalizing b s with
  | nil => rfl
  | cons x r ih => simp [setCmdBits, ih]
@[simp] theorem setCmdBits_requests (b : Nat) (l : List Bool) (s : State) : (setCmdBits b l s).requests = s.requests := by
  induction l generalizing b s with
  | nil => rfl
  | cons x r ih => simp [setCmdBits, ih]
@[simp] theorem setCmdBits_hostLog (b : Nat) (l : List Bool) (s : State) : (setCmdBits b l s).hostLog = s.hostLog := by
  induction l generalizing b s with
  | nil => rfl
  | cons x r ih => simp [setCmdBits, ih]
@[simp] theorem setCmdBits_draws (b : Nat) (l : List Bool) (s : State) : (setCmdBits b l s).draws = s.draws := by
  induction l generalizing b s with
  | nil => rfl
  | cons x r ih => simp [setCmdBits, ih]

end Sys2Proof.Machine
end

