-- ==== Sys2Proof/Laws/Memory.lean ====
section
/-! SUPPORT. The scratch buffers: read after write, the canonical form, the range of addresses, runs of bytes. -/

namespace Sys2Proof.Machine

@[simp] theorem Memory.read_nil (a : Nat) : Memory.read [] a = Memory.unlisted := rfl

theorem Memory.read_cons (k : Nat) (b : Byte) (r : Memory) (a : Nat) :
    Memory.read ((k, b) :: r) a = if k = a then b else Memory.read r a := rfl

/-- The canonical form, taken apart at the head. -/
theorem Memory.wf_cons (k : Nat) (b : Byte) (r : Memory) :
    Memory.wf ((k, b) :: r) = true ↔ (∀ c ∈ r, k < c.1) ∧ b ≠ Memory.unlisted ∧ Memory.wf r = true := by
  simp only [Memory.wf, List.pairwise_cons, List.all_cons, Bool.and_eq_true, decide_eq_true_eq, bne_iff_ne]
  tauto

@[simp] theorem Memory.wf_nil : Memory.wf [] = true := rfl

/-- An address below every listed one is unlisted. -/
theorem Memory.read_of_lt (m : Memory) (a : Nat) (h : ∀ c ∈ m, a < c.1) : m.read a = Memory.unlisted := by
  induction m with
  | nil => rfl
  | cons c r ih =>
    obtain ⟨k, b⟩ := c
    have hk : a < k := h (k, b) (by simp)
    rw [Memory.read_cons, if_neg (by omega)]
    exact ih (fun c hc => h c (by simp [hc]))

/-- A write lists no address but its own and those listed before. -/
theorem Memory.mem_write (m : Memory) (a : Nat) (b : Byte) (c : Host.Cell) (h : c ∈ m.write a b) :
    c = (a, b) ∨ c ∈ m := by
  induction m with
  | nil =>
    simp only [Memory.write] at h
    split at h <;> simp_all
  | cons d r ih =>
    obtain ⟨k, v⟩ := d
    simp only [Memory.write] at h
    split at h
    · split at h <;> simp_all
    · split at h
      · split at h <;> simp_all
        tauto
      · rcases List.mem_cons.mp h with h | h
        · simp [h]
        · rcases ih h with h | h <;> simp [h]

/-- A write keeps the canonical form. -/
theorem Memory.wf_write (m : Memory) (a : Nat) (b : Byte) (h : m.wf = true) : (m.write a b).wf = true := by
  induction m with
  | nil =>
    simp only [Memory.write]
    split
    · rfl
    · rw [Memory.wf_cons]; simp_all
  | cons d r ih =>
    obtain ⟨k, v⟩ := d
    have hw := h
    rw [Memory.wf_cons] at h
    obtain ⟨h1, h2, h3⟩ := h
    simp only [Memory.write]
    split
    · split
      · exact hw
      · rw [Memory.wf_cons]
        refine ⟨?_, by assumption, hw⟩
        intro c hc
        rcases List.mem_cons.mp hc with rfl | hc
        · assumption
        · have := h1 c hc; omega
    · split
      · split
        · exact h3
        · rw [Memory.wf_cons]
          subst_vars
          exact ⟨h1, by assumption, h3⟩
      · rw [Memory.wf_cons]
        refine ⟨?_, h2, ih h3⟩
        intro c hc
        rcases Memory.mem_write r a b c hc with rfl | hc
        · simp; omega
        · exact h1 c hc

/-- Read after write, on any canonical buffer. -/
theorem Memory.read_write (m : Memory) (a : Nat) (b : Byte) (x : Nat) (h : m.wf = true) :
    (m.write a b).read x = if x = a then b else m.read x := by
  induction m with
  | nil =>
    simp only [Memory.write]
    split <;> simp_all [Memory.read_cons, eq_comm]
  | cons d r ih =>
    obtain ⟨k, v⟩ := d
    rw [Memory.wf_cons] at h
    obtain ⟨h1, h2, h3⟩ := h
    simp only [Memory.write]
    split
    · split
      · split
        · subst_vars
          rw [Memory.read_of_lt]
          intro c hc
          rcases List.mem_cons.mp hc with rfl | hc
          · assumption
          · have := h1 c hc; omega
        · rfl
      · rw [Memory.read_cons]
        by_cases hx : x = a
        · simp [hx]
        · rw [if_neg (by omega), if_neg hx]
    · split
      · have hak : a = k := by assumption
        subst hak
        rw [Memory.read_cons]
        split
        · by_cases hx : x = a
          · subst hx; rw [if_pos rfl, Memory.read_of_lt r x h1]; simp_all
          · rw [if_neg hx, if_neg (by omega)]
        · rw [Memory.read_cons]
          by_cases hx : x = a
          · simp [hx]
          · rw [if_neg (by omega), if_neg hx, if_neg (by omega)]
      · rw [Memory.read_cons, Memory.read_cons, ih h3]
        by_cases hk : k = x
        · rw [if_pos hk, if_pos hk, if_neg (by omega)]
        · rw [if_neg hk, if_neg hk]

/-- A write below a bound keeps every listed address below it. -/
theorem Memory.range_write (m : Memory) (a : Nat) (b : Byte) (n : Nat) (ha : a < n) (h : ∀ c ∈ m, c.1 < n) :
    ∀ c ∈ m.write a b, c.1 < n := by
  intro c hc
  rcases Memory.mem_write m a b c hc with rfl | hc
  · exact ha
  · exact h c hc

/-- A run of bytes keeps the canonical form. -/
theorem Memory.wf_writeBytes (m : Memory) (a : Nat) (l : List Byte) (h : m.wf = true) :
    (m.writeBytes a l).wf = true := by
  induction l generalizing m a with
  | nil => exact h
  | cons b r ih => exact ih _ _ (Memory.wf_write m a b h)

/-- A run of bytes below a bound keeps every listed address below it. -/
theorem Memory.range_writeBytes (m : Memory) (a : Nat) (l : List Byte) (n : Nat) (ha : a + l.length ≤ n)
    (h : ∀ c ∈ m, c.1 < n) : ∀ c ∈ m.writeBytes a l, c.1 < n := by
  induction l generalizing m a with
  | nil => exact h
  | cons b r ih =>
    simp only [List.length_cons] at ha
    exact ih _ _ (by omega) (Memory.range_write m a b n (by omega) h)

/-- Reading after a run of bytes was written. -/
theorem Memory.read_writeBytes (m : Memory) (a : Nat) (l : List Byte) (x : Nat) (h : m.wf = true) :
    (m.writeBytes a l).read x = if a ≤ x ∧ x < a + l.length then l.getD (x - a) 0 else m.read x := by
  induction l generalizing m a with
  | nil => simp [Memory.writeBytes]
  | cons b r ih =>
    simp only [Memory.writeBytes, ih _ _ (Memory.wf_write m a b h), Memory.read_write m a b x h, List.length_cons]
    rcases Nat.lt_trichotomy x a with hx | hx | hx
    · rw [if_neg (by omega), if_neg (by omega), if_neg (by omega)]
    · subst hx; simp
    · obtain ⟨d, rfl⟩ : ∃ d, x = a + 1 + d := ⟨x - (a + 1), by omega⟩
      by_cases hd : d < r.length
      · rw [if_pos (by omega), if_pos (by omega)]
        simp [show a + 1 + d - a = d + 1 by omega]
      · rw [if_neg (by omega), if_neg (by omega), if_neg (by omega)]

@[simp] theorem Memory.length_readBytes (m : Memory) (a n : Nat) : (m.readBytes a n).length = n := by
  simp [Memory.readBytes]

theorem Memory.getElem_readBytes (m : Memory) (a n i : Nat) (h : i < (m.readBytes a n).length) :
    (m.readBytes a n)[i] = m.read (a + i) := by
  simp [Memory.readBytes]

end Sys2Proof.Machine
end

