-- ==== Sys2Proof/Laws/Bits.lean ====
section
/-! SUPPORT. Bits of bytes: `setBit`, `byteOf`, `bits8`, little-endian values, the byte swap. -/

namespace Sys2Proof.Machine

/-- Bit `j` after `setBit`. -/
theorem getLsbD_setBit (b : Byte) (i : Nat) (x : Bool) (j : Nat) (hi : i < 8) :
    (setBit b i x).getLsbD j = if j = i then x else b.getLsbD j := by
  have h : (1#8 <<< i).getLsbD j = decide (j = i) := by
    rw [BitVec.getLsbD_shiftLeft, BitVec.getLsbD_one]
    by_cases hj : j = i
    · subst hj; simp [hi]
    · simp [hj]; omega
  unfold setBit
  by_cases h8 : j < 8
  · cases x
    · simp only [Bool.false_eq_true, if_false, BitVec.getLsbD_and, BitVec.getLsbD_not, h]
      by_cases hj : j = i <;> simp [hj, h8]
    · simp only [if_true, BitVec.getLsbD_or, h]
      by_cases hj : j = i <;> simp [hj]
  · rw [BitVec.getLsbD_of_ge _ _ (by omega), BitVec.getLsbD_of_ge b _ (by omega), if_neg (by omega)]

/-- Bit `j` of `byteOf f`. -/
theorem getLsbD_byteOf (f : Nat → Bool) (j : Nat) (h : j < 8) : (byteOf f).getLsbD j = f j := by
  unfold byteOf
  rw [show (BitVec.ofBoolListLE [f 0, f 1, f 2, f 3, f 4, f 5, f 6, f 7] : BitVec 8).getLsbD j
    = [f 0, f 1, f 2, f 3, f 4, f 5, f 6, f 7].getD j false from BitVec.getLsbD_ofBoolListLE]
  have hj : [f 0, f 1, f 2, f 3, f 4, f 5, f 6, f 7] = (List.range 8).map f := rfl
  rw [hj]
  simp [List.getD_eq_getElem?_getD, h]

@[simp] theorem length_bits8 (b : Byte) : (bits8 b).length = 8 := rfl

/-- The bits of a byte by index, most significant first. -/
theorem bits8_eq (b : Byte) : bits8 b = (List.range 8).map (fun j => b.getLsbD (7 - j)) := rfl

theorem length_flatMap_bits8 (p : List Byte) : (p.flatMap bits8).length = 8 * p.length := by
  induction p with
  | nil => rfl
  | cons b r ih => simp [List.flatMap_cons, ih]; omega

@[simp] theorem length_frame9 (tag : Bool) (p : List Byte) : (frame9 tag p).length = 9 * p.length := by
  induction p generalizing tag with
  | nil => rfl
  | cons b r ih => simp [frame9, ih]; omega

/-- Little-endian values of equal length are equal exactly when the bytes are (R292). -/
theorem leValue_inj (d e : List Byte) (h : d.length = e.length) : leValue d = leValue e ↔ d = e := by
  induction d generalizing e with
  | nil => cases e <;> simp_all [leValue]
  | cons a r ih =>
    cases e with
    | nil => simp at h
    | cons b t =>
      simp only [List.length_cons, Nat.add_right_cancel_iff] at h
      simp only [leValue, List.cons.injEq, ← ih t h, BitVec.toNat_inj.symm]
      have := a.isLt
      have := b.isLt
      omega

/-- A read compares equal exactly when the `k` bytes are the `k` expected bytes (R292). -/
theorem equalLE_iff (d e : List Byte) (k : Nat) (hd : d.length = k) (he : e.length = k) :
    equalLE d e k = true ↔ d = e := by
  unfold equalLE
  rw [List.take_of_length_le (by omega), List.take_of_length_le (by omega), beq_iff_eq, leValue_inj d e (by omega)]

@[simp] theorem length_swap (p : List Byte) : (swap p).length = p.length := by
  match p with
  | [] => rfl
  | [_] => rfl
  | _ :: _ :: _ => rfl

@[simp] theorem length_freeBytes (n k : Nat) : (freeBytes n k).length = k := by simp [freeBytes]

@[simp] theorem length_cmdBytes (s : State) (l : Nat) : (cmdBytes s l).length = l := by simp [cmdBytes]

end Sys2Proof.Machine
end

