-- ==== Sys2Proof/Laws/Decode.lean ====
section
/-! SUPPORT. The decoder's parts: taking bytes, the opcode byte, the opcode map, little-endian words. -/

namespace Sys2Proof

/-- Taking the bytes of a payload that is there. -/
theorem splitBytes_append (p rest : List Byte) : splitBytes p.length (p ++ rest) = some (p, rest) := by
  induction p with
  | nil => rfl
  | cons b r ih => simp [splitBytes, ih]

/-- What taking bytes gives: exactly as many as asked for, in order. -/
theorem splitBytes_eq_some {n : Nat} {r p q : List Byte} (h : splitBytes n r = some (p, q)) :
    p.length = n ∧ p ++ q = r := by
  induction n generalizing r p with
  | zero => simp [splitBytes] at h; obtain ⟨rfl, rfl⟩ := h; simp
  | succ n ih =>
    cases r with
    | nil => simp [splitBytes] at h
    | cons b r =>
      simp only [splitBytes] at h
      split at h
      · next p' q' h' =>
        simp only [Option.some.injEq, Prod.mk.injEq] at h
        obtain ⟨rfl, rfl⟩ := h
        obtain ⟨h1, h2⟩ := ih h'
        simp [h1, h2]
      · simp at h

/-- What a body of `n` bytes decodes to. -/
theorem takeBody_eq_ok {n : Nat} {r rest : List Byte} {f : List Byte → Instr} {i : Instr}
    (h : takeBody n r f = .ok i rest) : ∃ p, p.length = n ∧ p ++ rest = r ∧ i = f p := by
  unfold takeBody at h
  split at h
  · next p q hs =>
    obtain ⟨h1, h2⟩ := splitBytes_eq_some hs
    simp only [Decoded.ok.injEq] at h
    exact ⟨p, h1, by rw [← h.2, h2], h.1.symm⟩
  · simp at h

/-- A body that is there. -/
theorem takeBody_append (p rest : List Byte) (f : List Byte → Instr) :
    takeBody p.length (p ++ rest) f = .ok (f p) rest := by
  simp [takeBody, splitBytes_append]

@[simp] theorem opGeneric_opByte (g : Bool) (v : BitVec 7) : opGeneric (opByte g v) = g := by
  revert g v; decide

@[simp] theorem opCode_opByte (g : Bool) (v : BitVec 7) : opCode (opByte g v) = v := by
  revert g v; decide

@[simp] theorem opByte_opGeneric_opCode (op : Byte) : opByte (opGeneric op) (opCode op) = op := by
  revert op; decide

/-- The name a map gives a value has that value. -/
theorem OpcodeMap.code_of_classify {m : OpcodeMap} {v : BitVec 7} {o : OpName} (h : m.classify v = some o) :
    m.code o = v := by
  simpa using List.find?_some h

theorem OpName.mem_all (o : OpName) : o ∈ OpName.all := by cases o <;> decide

/-- A legal map gives back the name of each value. -/
theorem OpcodeMap.classify_code {m : OpcodeMap} (hm : m.legal = true) (o : OpName) :
    m.classify (m.code o) = some o := by
  simp only [OpcodeMap.legal, Bool.and_eq_true, decide_eq_true_eq] at hm
  have hnd := List.inj_on_of_nodup_map hm.1.1
  unfold OpcodeMap.classify
  cases h : OpName.all.find? (fun o' => m.code o' == m.code o) with
  | none =>
    have := List.find?_eq_none.mp h o (OpName.mem_all o)
    simp at this
  | some o' =>
    have h1 : m.code o' = m.code o := by simpa using List.find?_some h
    rw [hnd (OpName.mem_all o') (OpName.mem_all o) h1]

/-- A legal map gives no name an inline value. -/
theorem OpcodeMap.not_inline_code {m : OpcodeMap} (hm : m.legal = true) (o : OpName) :
    isInline (m.code o) = false := by
  simp only [OpcodeMap.legal, Bool.and_eq_true, List.all_eq_true] at hm
  simpa using hm.1.2 o (OpName.mem_all o)

/-- The four bytes of a little-endian word give it back. -/
theorem le32_wordByte (v : Word) : le32 (wordByte v 0) (wordByte v 1) (wordByte v 2) (wordByte v 3) = v := by
  refine BitVec.eq_of_getLsbD_eq ?_
  intro i hi
  simp only [le32, wordByte, BitVec.getLsbD_append, BitVec.getLsbD_extractLsb']
  split
  · simp_all
  · split
    · next h1 h2 => simp [h2, show 8 + (i - 8) = i by omega]
    · split
      · next h1 h2 h3 => simp [h3, show 16 + (i - 8 - 8) = i by omega]
      · next h1 h2 h3 => simp [show i - 8 - 8 - 8 < 8 by omega, show 24 + (i - 8 - 8 - 8) = i by omega]

/-- The bytes of a little-endian word are the bytes it was made of. -/
theorem wordByte_le32 (v0 v1 v2 v3 : Byte) :
    wordByte (le32 v0 v1 v2 v3) 0 = v0 ∧ wordByte (le32 v0 v1 v2 v3) 1 = v1 ∧
      wordByte (le32 v0 v1 v2 v3) 2 = v2 ∧ wordByte (le32 v0 v1 v2 v3) 3 = v3 := by
  refine ⟨?_, ?_, ?_, ?_⟩ <;>
  · refine BitVec.eq_of_getLsbD_eq ?_
    intro i hi
    simp only [le32, wordByte, BitVec.getLsbD_append, BitVec.getLsbD_extractLsb', hi, decide_true, Bool.true_and]
    repeat' split
    all_goals first | omega | (congr 1; omega)

end Sys2Proof
end

