-- ==== Sys2Proof/Laws/Ops.lean ====
section
/-! SUPPORT. For each shared operation that may wait, one lemma that says once everything it can do: a property holds after it
when it holds in each of its cases. -/

namespace Sys2Proof.Machine

/-- A bus call is answered and its step goes on, or it stays outstanding. -/
theorem busCall_ind {Q : State → Prop} (c : BusCall) (w : Wait) (k : Answer → State → State) (s : State)
    (hwait : Q (s.await .waitBus w))
    (hk : ∀ a rest, s.answers = a :: rest → c.allows a = true →
      Q (k a { s with answers := rest, trace := s.trace ++ [.bus c a] })) :
    Q (busCall c w k s) := by
  unfold busCall
  split
  · next a rest h =>
    split
    · next ha => exact hk a rest h ha
    · exact hwait
  · exact hwait

/-- A bus call with an allowed answer to come. -/
theorem busCall_answered (c : BusCall) (w : Wait) (k : Answer → State → State) (s : State) (a : Answer)
    (rest : List Answer) (h : s.answers = a :: rest) (ha : c.allows a = true) :
    busCall c w k s = k a { s with answers := rest, trace := s.trace ++ [.bus c a] } := by
  simp [busCall, h, ha]

/-- A bus call with no answer to come. -/
theorem busCall_unanswered (c : BusCall) (w : Wait) (k : Answer → State → State) (s : State) (h : s.answers = []) :
    busCall c w k s = s.await .waitBus w := by
  simp [busCall, h]

/-- An outstanding sleep is ended and its step goes on, or it stays outstanding. -/
theorem awaitWake_ind {Q : State → Prop} (w : Wait) (k : State → State) (s : State)
    (hwait : Q (s.await .waitSleep w)) (hk : ∀ n, s.wakes = n + 1 → Q (k { s with wakes := n })) :
    Q (awaitWake w k s) := by
  unfold awaitWake
  split
  · next n h => exact hk n h
  · exact hwait

/-- A sleep of 0 ms is only recorded (R262); any other is recorded, then ended or outstanding. -/
theorem sleepThen_ind {Q : State → Prop} (ms : Nat) (w : Wait) (k : State → State) (s : State)
    (hzero : ms = 0 → Q (k (s.emit (.sleep 0))))
    (hwait : ms ≠ 0 → Q ((s.emit (.sleep ms)).await .waitSleep w))
    (hk : ms ≠ 0 → ∀ n, s.wakes = n + 1 → Q (k { s.emit (.sleep ms) with wakes := n })) :
    Q (sleepThen ms w k s) := by
  unfold sleepThen
  split
  · next h => exact hzero h
  · next h => exact awaitWake_ind w k _ (hwait h) (hk h)

/-- A sleep of 0 ms waits for nothing (R262). -/
theorem sleepThen_zero (w : Wait) (k : State → State) (s : State) : sleepThen 0 w k s = k (s.emit (.sleep 0)) := rfl

/-- A sleep the environment ends. -/
theorem sleepThen_woken (ms : Nat) (w : Wait) (k : State → State) (s : State) (n : Nat) (hms : ms ≠ 0)
    (h : s.wakes = n + 1) : sleepThen ms w k s = k { s.emit (.sleep ms) with wakes := n } := by
  simp [sleepThen, awaitWake, h, hms]

/-- An SPI transfer is answered with an error or with the received bytes, or it stays outstanding. -/
theorem spiTransfer_ind {Q : State → Prop} (m : Nat) (wantRx : Bool) (w : Wait) (k : State → State) (s : State)
    (hwait : Q (s.await .waitBus w))
    (herr : ∀ kind rest, s.answers = .error kind :: rest →
      Q (State.abort { s with
          answers := rest
          trace := s.trace ++ [.bus (.spiTransfer (s.tx.readBytes 0 m) wantRx s.cfg.spiMaxHz) (.error kind)] }
        (.ebus kind) (if wantRx then .busRead else .busWrite)))
    (hok : ∀ d rest, s.answers = .ok d :: rest → d.length = (if wantRx then m else 0) →
      Q (k { s with
        answers := rest
        trace := s.trace ++ [.bus (.spiTransfer (s.tx.readBytes 0 m) wantRx s.cfg.spiMaxHz) (.ok d)]
        rx := if wantRx then s.rx.writeBytes 0 d else s.rx
        cursor := 0 })) :
    Q (spiTransfer m wantRx w k s) := by
  unfold spiTransfer
  refine busCall_ind _ _ _ _ hwait ?_
  intro a rest h ha
  cases a with
  | ok d =>
    refine hok d rest h ?_
    cases wantRx <;> simp_all [BusCall.allows]
  | error kind => exact herr kind rest h
  | protocolError d => cases wantRx <;> simp [BusCall.allows] at ha

/-- The padded state a flush transfers from. -/
def padded (s : State) : State := putBits (List.replicate (8 * ceilDiv s.cursor 8 - s.cursor) true) s

/-- A flush does nothing, or pads and transfers. -/
theorem flush_ind {Q : State → Prop} (wantRx : Bool) (w : Wait) (k : State → State) (s : State)
    (hnone : s.cursor = 0 → Q (k s))
    (hsome : s.cursor ≠ 0 → Q (spiTransfer (ceilDiv s.cursor 8) wantRx w k (padded s))) :
    Q (flush wantRx w k s) := by
  unfold flush
  split
  · next h => exact hnone h
  · next h => exact hsome h

/-- A 9-bit append finds room, or flushes first, and fails when it is above the capacity by itself. -/
theorem checkRoom_ind {Q : State → Prop} (n : Nat) (w : Wait) (k : State → State) (s : State)
    (hroom : s.cursor + n ≤ txBits → Q (k s))
    (hflush : s.cursor + n > txBits → Q (flush false w (afterRoom n k) s)) :
    Q (checkRoom n w k s) := by
  unfold checkRoom
  split
  · next h => exact hflush h
  · next h => exact hroom (by omega)

/-- A byte-mode store fails unaligned or above the capacity, or appends the bits. -/
theorem storeBytes_ind {Q : State → Prop} (p : List Byte) (k : State → State) (s : State)
    (hun : s.cursor % 8 ≠ 0 → Q (s.abort .einval .unaligned))
    (hover : s.cursor + 8 * p.length > txBits → Q (s.abort .einval .overflow))
    (hok : s.cursor % 8 = 0 → s.cursor + 8 * p.length ≤ txBits → Q (k (putBits (p.flatMap bits8) s))) :
    Q (storeBytes p k s) := by
  unfold storeBytes
  split
  · next h => exact hun h
  · split
    · next h => exact hover h
    · next h1 h2 => exact hok (by omega) (by omega)

end Sys2Proof.Machine
end

