-- ==== Sys2Proof/Laws/Packer.lean ====
section
/-! SUPPORT. The bit packer: what PutBit does to the pending bits and to the other bytes of TX, and what a flush puts on the
wire. -/

namespace Sys2Proof.Machine

@[simp] theorem length_pendingBits (s : State) : (pendingBits s).length = s.cursor := by simp [pendingBits]

@[simp] theorem wf_tx_putBit (x : Bool) (s : State) (h : s.tx.wf = true) : (putBit x s).tx.wf = true :=
  Memory.wf_write _ _ _ h

/-- Bits put one after another keep TX canonical. -/
theorem wf_tx_putBits (l : List Bool) (s : State) (h : s.tx.wf = true) : (putBits l s).tx.wf = true := by
  induction l generalizing s with
  | nil => exact h
  | cons x r ih => exact ih _ (wf_tx_putBit x s h)

/-- Bits put below the capacity list no address outside TX. -/
theorem range_tx_putBits (l : List Bool) (s : State) (hc : s.cursor + l.length ≤ txBits)
    (h : ∀ c ∈ s.tx, c.1 < txSize) : ∀ c ∈ (putBits l s).tx, c.1 < txSize := by
  induction l generalizing s with
  | nil => exact h
  | cons x r ih =>
    simp only [List.length_cons] at hc
    refine ih _ (by simp; omega) (Memory.range_write _ _ _ _ ?_ h)
    simp only [txBits, txSize] at *
    omega

/-- A bit of TX after PutBit, by its index in transmission order (R200). -/
theorem getLsbD_tx_putBit (x : Bool) (s : State) (h : s.tx.wf = true) (k : Nat) :
    ((putBit x s).tx.read (k / 8)).getLsbD (7 - k % 8)
      = if k = s.cursor then x else (s.tx.read (k / 8)).getLsbD (7 - k % 8) := by
  rw [putBit_tx, Memory.read_write _ _ _ _ h]
  by_cases hb : k / 8 = s.cursor / 8
  · rw [if_pos hb, getLsbD_setBit _ _ _ _ (by omega), hb]
    by_cases hk : k = s.cursor
    · subst hk; simp
    · rw [if_neg (by omega), if_neg hk]
  · rw [if_neg hb, if_neg (by intro hk; exact hb (by rw [hk]))]

/-- PutBit appends one pending bit (R200). -/
theorem pendingBits_putBit (x : Bool) (s : State) (h : s.tx.wf = true) :
    pendingBits (putBit x s) = pendingBits s ++ [x] := by
  unfold pendingBits
  rw [putBit_cursor, List.range_succ, List.map_append]
  congr 1
  · refine List.map_congr_left ?_
    intro k hk
    rw [getLsbD_tx_putBit x s h, if_neg (by simp at hk; omega)]
  · rw [List.map_singleton, getLsbD_tx_putBit x s h, if_pos rfl]

/-- Bits put one after another are appended to the pending bits (R200). -/
theorem pendingBits_putBits (l : List Bool) (s : State) (h : s.tx.wf = true) :
    pendingBits (putBits l s) = pendingBits s ++ l := by
  induction l generalizing s with
  | nil => simp [putBits]
  | cons x r ih =>
    rw [putBits, ih _ (wf_tx_putBit x s h), pendingBits_putBit x s h]
    simp

/-- A byte of TX all of whose bits lie outside the bits put is unchanged (R200). -/
theorem read_tx_putBits (l : List Bool) (s : State) (a : Nat) (h : s.tx.wf = true)
    (ha : a < s.cursor / 8 ∨ s.cursor + l.length ≤ 8 * a) : (putBits l s).tx.read a = s.tx.read a := by
  induction l generalizing s with
  | nil => rfl
  | cons x r ih =>
    simp only [List.length_cons] at ha
    rw [putBits, ih _ (wf_tx_putBit x s h), putBit_tx, Memory.read_write _ _ _ _ h, if_neg (by omega)]
    simp only [putBit_cursor]
    omega

/-- The bits of the first `m` bytes of TX are the first `8m` bits in transmission order (R45, R75). -/
theorem wireBits_readBytes (t : Memory) (m : Nat) :
    wireBits (t.readBytes 0 m) = (List.range (8 * m)).map (fun k => (t.read (k / 8)).getLsbD (7 - k % 8)) := by
  induction m with
  | zero => rfl
  | succ m ih =>
    have h : t.readBytes 0 (m + 1) = t.readBytes 0 m ++ [t.read m] := by
      simp [Memory.readBytes, List.range_succ]
    rw [h, wireBits, List.flatMap_append, ← wireBits, ih, show 8 * (m + 1) = 8 * m + 8 by omega, List.range_add,
      List.map_append]
    congr 1
    simp only [List.flatMap_cons, List.flatMap_nil, List.append_nil, List.map_map]
    refine List.map_congr_left ?_
    intro j hj
    have : j < 8 := by simpa using hj
    simp only [Function.comp]
    rw [show (8 * m + j) / 8 = m by omega, show (8 * m + j) % 8 = j by omega]

/-- The bits of a byte sequence, as the packer appends them (R202). -/
theorem wireBits_eq (p : List Byte) : wireBits p = p.flatMap bits8 := rfl

/-- The bits of 9-bit framing, as the packer appends them (R203, R207). -/
theorem nineBit_eq (p : List Byte) : frame9 false p = nineBit p := by
  have h : ∀ d : List Byte, frame9 true d = d.flatMap (nineBitWord true) := by
    intro d
    induction d with
    | nil => rfl
    | cons b r ih => rw [frame9, ih]; rfl
  cases p with
  | nil => rfl
  | cons c d => rw [frame9, h]; rfl

/-- How many ones a flush appends (R201). -/
theorem pad_count (c : Nat) : 8 * ceilDiv c 8 - c = (8 - c % 8) % 8 := by
  unfold ceilDiv
  omega

theorem padded_cursor (s : State) : (padded s).cursor = 8 * ceilDiv s.cursor 8 := by
  unfold padded ceilDiv
  simp
  omega

/-- What a flush transfers: the pending bits padded with ones (R201). -/
theorem wireBits_padded (s : State) (h : s.tx.wf = true) :
    wireBits ((padded s).tx.readBytes 0 (ceilDiv s.cursor 8)) = padOnes (pendingBits s) := by
  have hp : pendingBits (padded s) = padOnes (pendingBits s) := by
    rw [padded, pendingBits_putBits _ _ h, padOnes, pad_count, length_pendingBits]
  rw [← hp, wireBits_readBytes, pendingBits, padded_cursor]

/-- A byte sequence is determined by its bits on the wire. -/
theorem wireBits_inj (p q : List Byte) (h : wireBits p = wireBits q) : p = q := by
  induction p generalizing q with
  | nil =>
    cases q with
    | nil => rfl
    | cons b r => simp [wireBits] at h
  | cons a r ih =>
    cases q with
    | nil => simp [wireBits] at h
    | cons b t =>
      rw [wireBits, wireBits, List.flatMap_cons, List.flatMap_cons] at h
      obtain ⟨h1, h2⟩ := List.append_inj h (by simp)
      have hab : a = b := by
        refine BitVec.eq_of_getLsbD_eq ?_
        intro i hi
        have := congrArg (fun l => l[7 - i]?) h1
        simp only [List.getElem?_map, List.getElem?_range (show 7 - i < 8 by omega), Option.map_some, Option.some.injEq]
          at this
        rwa [show 7 - (7 - i) = i by omega] at this
      rw [hab, ih t h2]

end Sys2Proof.Machine
end

