-- ==== Sys2Proof/Laws/PerInstr.lean ====
section
/-! SUPPORT. What is proved instruction by instruction: the encoding of a well-formed step has the length of R106. -/

namespace Sys2Proof.Laws.EncodeLength

/-- The encoding of a well-formed step is as long as R106 says, under every map. -/
def Statement (i : Instr) : Prop := i.wellFormed = true → ∀ m, (encodeWith m i).length = i.stepLen

theorem inlineDcs (p : List Byte) : Statement (.inlineDcs p) := by
  intro _ m
  simp only [encodeWith, Instr.stepLen, List.length_cons]
  omega

theorem inlineGeneric (p : List Byte) : Statement (.inlineGeneric p) := by
  intro _ m
  simp only [encodeWith, Instr.stepLen, List.length_cons]
  omega

theorem dcsLength (p : List Byte) : Statement (.dcsLength p) := by
  intro _ m
  simp only [encodeWith, Instr.stepLen, List.length_cons]
  omega

theorem dcsLengthG (p : List Byte) : Statement (.dcsLengthG p) := by
  intro _ m
  simp only [encodeWith, Instr.stepLen, List.length_cons]
  omega

theorem dcsBuf (l : Byte) : Statement (.dcsBuf l) :=
  fun _ _ => rfl

theorem dcsBufG (l : Byte) : Statement (.dcsBufG l) :=
  fun _ _ => rfl

theorem delay (x : Bool) (ms : Byte) : Statement (.delay x ms) :=
  fun _ _ => rfl

theorem mrps (x : Bool) (n : Byte) : Statement (.mrps x n) :=
  fun _ _ => rfl

theorem dcsRead1 (c0 : Byte) (e : List Byte) : Statement (.dcsRead1 c0 e) := by
  intro h m
  simp only [Instr.wellFormed, Instr.expectOk, beq_iff_eq] at h
  simp [encodeWith, Instr.stepLen, h]

theorem dcsRead1G (c0 c1 : Byte) (e : List Byte) : Statement (.dcsRead1G c0 c1 e) := by
  intro h m
  simp only [Instr.wellFormed, Instr.expectOk, beq_iff_eq] at h
  simp [encodeWith, Instr.stepLen, h]

theorem dcsRead2 (c0 : Byte) (e : List Byte) : Statement (.dcsRead2 c0 e) := by
  intro h m
  simp only [Instr.wellFormed, Instr.expectOk, beq_iff_eq] at h
  simp [encodeWith, Instr.stepLen, h]

theorem dcsRead2G (c0 c1 : Byte) (e : List Byte) : Statement (.dcsRead2G c0 c1 e) := by
  intro h m
  simp only [Instr.wellFormed, Instr.expectOk, beq_iff_eq] at h
  simp [encodeWith, Instr.stepLen, h]

theorem dcsRead3 (c0 : Byte) (e : List Byte) : Statement (.dcsRead3 c0 e) := by
  intro h m
  simp only [Instr.wellFormed, Instr.expectOk, beq_iff_eq] at h
  simp [encodeWith, Instr.stepLen, h]

theorem dcsRead3G (c0 c1 : Byte) (e : List Byte) : Statement (.dcsRead3G c0 c1 e) := by
  intro h m
  simp only [Instr.wellFormed, Instr.expectOk, beq_iff_eq] at h
  simp [encodeWith, Instr.stepLen, h]

theorem dcsRead4 (c0 : Byte) (e : List Byte) : Statement (.dcsRead4 c0 e) := by
  intro h m
  simp only [Instr.wellFormed, Instr.expectOk, beq_iff_eq] at h
  simp [encodeWith, Instr.stepLen, h]

theorem dcsRead4G (c0 c1 : Byte) (e : List Byte) : Statement (.dcsRead4G c0 c1 e) := by
  intro h m
  simp only [Instr.wellFormed, Instr.expectOk, beq_iff_eq] at h
  simp [encodeWith, Instr.stepLen, h]

theorem dcsRead5 (c0 : Byte) (e : List Byte) : Statement (.dcsRead5 c0 e) := by
  intro h m
  simp only [Instr.wellFormed, Instr.expectOk, beq_iff_eq] at h
  simp [encodeWith, Instr.stepLen, h]

theorem dcsRead5G (c0 c1 : Byte) (e : List Byte) : Statement (.dcsRead5G c0 c1 e) := by
  intro h m
  simp only [Instr.wellFormed, Instr.expectOk, beq_iff_eq] at h
  simp [encodeWith, Instr.stepLen, h]

theorem dcsRead6 (c0 : Byte) (e : List Byte) : Statement (.dcsRead6 c0 e) := by
  intro h m
  simp only [Instr.wellFormed, Instr.expectOk, beq_iff_eq] at h
  simp [encodeWith, Instr.stepLen, h]

theorem dcsRead6G (c0 c1 : Byte) (e : List Byte) : Statement (.dcsRead6G c0 c1 e) := by
  intro h m
  simp only [Instr.wellFormed, Instr.expectOk, beq_iff_eq] at h
  simp [encodeWith, Instr.stepLen, h]

theorem dcsRead7 (c0 : Byte) (e : List Byte) : Statement (.dcsRead7 c0 e) := by
  intro h m
  simp only [Instr.wellFormed, Instr.expectOk, beq_iff_eq] at h
  simp [encodeWith, Instr.stepLen, h]

theorem dcsRead7G (c0 c1 : Byte) (e : List Byte) : Statement (.dcsRead7G c0 c1 e) := by
  intro h m
  simp only [Instr.wellFormed, Instr.expectOk, beq_iff_eq] at h
  simp [encodeWith, Instr.stepLen, h]

theorem dcsRead8 (c0 : Byte) (e : List Byte) : Statement (.dcsRead8 c0 e) := by
  intro h m
  simp only [Instr.wellFormed, Instr.expectOk, beq_iff_eq] at h
  simp [encodeWith, Instr.stepLen, h]

theorem dcsRead8G (c0 c1 : Byte) (e : List Byte) : Statement (.dcsRead8G c0 c1 e) := by
  intro h m
  simp only [Instr.wellFormed, Instr.expectOk, beq_iff_eq] at h
  simp [encodeWith, Instr.stepLen, h]

theorem if1Lane (x : Bool) : Statement (.if1Lane x) :=
  fun _ _ => rfl

theorem if2Lanes (x : Bool) : Statement (.if2Lanes x) :=
  fun _ _ => rfl

theorem if3Lanes (x : Bool) : Statement (.if3Lanes x) :=
  fun _ _ => rfl

theorem if4Lanes (x : Bool) : Statement (.if4Lanes x) :=
  fun _ _ => rfl

theorem constField (x : Bool) (ds dl : Byte) (val : Word) : Statement (.constField x ds dl val) :=
  fun _ _ => rfl

theorem hsync (x : Bool) (ds dl ss : Byte) : Statement (.hsync x ds dl ss) :=
  fun _ _ => rfl

theorem hbp (x : Bool) (ds dl ss : Byte) : Statement (.hbp x ds dl ss) :=
  fun _ _ => rfl

theorem hactive (x : Bool) (ds dl ss : Byte) : Statement (.hactive x ds dl ss) :=
  fun _ _ => rfl

theorem hfp (x : Bool) (ds dl ss : Byte) : Statement (.hfp x ds dl ss) :=
  fun _ _ => rfl

theorem vsync (x : Bool) (ds dl ss : Byte) : Statement (.vsync x ds dl ss) :=
  fun _ _ => rfl

theorem vbp (x : Bool) (ds dl ss : Byte) : Statement (.vbp x ds dl ss) :=
  fun _ _ => rfl

theorem vactive (x : Bool) (ds dl ss : Byte) : Statement (.vactive x ds dl ss) :=
  fun _ _ => rfl

theorem vfp (x : Bool) (ds dl ss : Byte) : Statement (.vfp x ds dl ss) :=
  fun _ _ => rfl

end Sys2Proof.Laws.EncodeLength
end

