-- ==== Sys2Proof/Laws/Steps.lean ====
section
/-! SUPPORT. The steps by shape: each kind of step is one shared operation, and what a flush that is answered does. -/

namespace Sys2Proof.Machine

/-- Appending bits changes TX and CURSOR, nothing else (R200). -/
theorem putBits_eq (l : List Bool) (s : State) :
    putBits l s = { s with tx := (putBits l s).tx, cursor := s.cursor + l.length } := by
  induction l generalizing s with
  | nil => rfl
  | cons x r ih => rw [putBits, ih]; simp [putBit]; omega

/-- The 9-bit words of `n` bytes are `9n` bits (R203). -/
@[simp] theorem length_nineBit (p : List Byte) : (nineBit p).length = 9 * p.length := by rw [← nineBit_eq]; simp

/-- The bits of `n` bytes on the wire are `8n`. -/
@[simp] theorem length_wireBits (p : List Byte) : (wireBits p).length = 8 * p.length := by
  rw [wireBits_eq, length_flatMap_bits8]

/-- A data step that no Unspecified check stops is its delivery (R231). -/
theorem exec_of_delivers {s s0 : State} {i : Instr} {g : Bool} {p : List Byte} (h : Delivers s i g p s0) :
    exec i s = .next (deliver g p s0) := by
  cases h with
  | inlineDcs | inlineGeneric => rfl
  | dcsLength _ h1 h2 | dcsLengthG _ h1 h2 =>
    show sendLength _ _ _ = _
    unfold sendLength
    rw [if_neg (by simpa using h1), if_neg (by rintro ⟨h3, h4⟩; rcases h2 with h2 | h2; exact h3 h2; omega)]
  | dcsBuf l h1 h2 | dcsBufG l h1 h2 =>
    show sendBuf _ _ _ = _
    unfold sendBuf
    rw [if_neg (by omega), if_neg (by omega)]

/-- A delivery starts from the same state but for the count of free values (R43). -/
theorem delivers_eq {s s0 : State} {i : Instr} {g : Bool} {p : List Byte} (h : Delivers s i g p s0) :
    s0 = { s with draws := s0.draws } := by
  cases h <;> rfl

/-- A read step is the comparison of its reply (R294). -/
theorem exec_of_reads {i : Instr} {k : Nat} {c : ReadCommand} {e : List Byte} (h : Reads i k c e) (s : State) :
    exec i s = .next (readCompare k c e s) := by
  cases h <;> rfl

/-- A read step compares `k` bytes, at most 8 (R290). -/
theorem reads_bounds {i : Instr} {k : Nat} {c : ReadCommand} {e : List Byte} (h : Reads i k c e) :
    e.length = k ∧ 1 ≤ k ∧ k ≤ 8 := by
  cases h <;> simp_all

/-- A lane filter sets SKIP by its lane count (R266). -/
theorem exec_of_filters {i : Instr} {k : Nat} (h : Filters i k) (s : State) : exec i s = .next (laneSkip k s) := by
  cases h <;> rfl

/-- The lane filters are the steps R143 names. -/
theorem isLaneFilter_of_filters {i : Instr} {k : Nat} (h : Filters i k) : i.isLaneFilter = true := by cases h <;> rfl

/-- A timing step writes the difference of its two geometry fields, or a free value (R321, R322, R328). -/
theorem exec_of_timing {s : State} {i : Instr} {ds dl ss : Byte} {hi lo : Word}
    (h : TimingStep s.cfg.timing i ds dl ss hi lo) :
    exec i s = .next (cmdWrite ds dl (timingDiff hi lo s.draws) ss.toNat (s.drew 1)) := by
  cases h <;> first | rfl | (simp [timingDiff, exec, execHactive, execVactive, substTiming, timingValue])

/-- A flush of nothing is nothing (R201). -/
theorem flush_empty (wantRx : Bool) (w : Wait) (k : State → State) (s : State) (h : s.cursor = 0) :
    flush wantRx w k s = k s := by
  simp [flush, h]

/-- The state after an answered flush that receives nothing (R182, R201). -/
def flushedState (s : State) (rest : List Answer) : State :=
  { padded s with
    answers := rest, cursor := 0
    trace := s.trace ++
      [.bus (.spiTransfer ((padded s).tx.readBytes 0 (ceilDiv s.cursor 8)) false s.cfg.spiMaxHz) (.ok [])] }

/-- A flush with pending bits and an answer goes on from `flushedState` (R201). -/
theorem flush_ok (w : Wait) (k : State → State) (s : State) (rest : List Answer) (hc : s.cursor ≠ 0)
    (ha : s.answers = .ok [] :: rest) : flush false w k s = k (flushedState s rest) := by
  unfold flush
  rw [if_neg hc]
  unfold spiTransfer
  rw [busCall_answered (a := .ok []) (rest := rest) (h := by simpa using ha) (ha := rfl)]
  simp [flushedState, padded]

/-- What `flushedState` is (R201). -/
theorem flushed_flushedState (s : State) (rest : List Answer) (hw : s.tx.wf = true) (ha : s.answers = .ok [] :: rest) :
    Flushed s (flushedState s rest) := by
  refine ⟨_, rest, ha, wireBits_padded s hw, ?_, wf_tx_putBits _ _ hw, ?_⟩
  · unfold flushedState padded
    rw [putBits_eq]
  · intro a hne
    refine read_tx_putBits _ _ _ hw ?_
    simp only [List.length_replicate, ceilDiv]
    omega

/-- A flush answered with an error aborts (R182, R201). -/
theorem flush_error (w : Wait) (k : State → State) (s : State) (kind : ErrKind) (rest : List Answer) (hc : s.cursor ≠ 0)
    (ha : s.answers = .error kind :: rest) (hw : s.tx.wf = true) : FlushFailed s (flush false w k s) kind := by
  unfold flush
  rw [if_neg hc]
  unfold spiTransfer
  rw [busCall_answered (a := .error kind) (rest := rest) (h := by simpa using ha) (ha := rfl)]
  refine ⟨_, rest, ha, wireBits_padded s hw, ?_, ?_⟩
  · simp only [padded]
    rw [putBits_eq]
    simp only [State.abort, List.length_replicate, State.mk.injEq, true_and, and_true]
    simp [ceilDiv]
    omega
  · intro a hne
    refine read_tx_putBits _ _ _ hw ?_
    simp only [List.length_replicate, ceilDiv]
    omega

/-- A flush that is not answered stops with the padded bits in TX (R46, R186, R201). -/
theorem flush_unanswered (wantRx : Bool) (w : Wait) (k : State → State) (s : State) (hc : s.cursor ≠ 0)
    (ha : s.answers = []) (hw : s.tx.wf = true) : Unanswered s (flush wantRx w k s) w (pendingBits s) := by
  unfold flush
  rw [if_neg hc]
  unfold spiTransfer
  rw [busCall_unanswered (h := by simpa using ha)]
  refine ⟨?_, ?_, ?_⟩
  · rw [putBits_eq]
    simp [State.await, ceilDiv]
    omega
  · show pendingBits (padded s) = _
    rw [padded, pendingBits_putBits _ _ hw, padOnes, pad_count, length_pendingBits]
  · intro a hne
    refine read_tx_putBits _ _ _ hw ?_
    simp [ceilDiv] at hne ⊢
    omega

/-- A step that flushes first is a flush, after the free values it draws (R84, R204, R261, R298). -/
theorem exec_of_flushesFirst {s : State} {i : Instr} (h : FlushesFirst s i) (hb : s.bus = .spi) :
    ∃ n w k, exec i s = .next (flush false w k (s.drew n)) := by
  cases h with
  | delay x ms =>
    refine ⟨0, .delayFlush ms.toNat, delaySleep ms.toNat, ?_⟩
    show Host.Outcome.next _ = Host.Outcome.next _
    rw [if_pos hb]
    rfl
  | read i k c e h =>
    refine ⟨0, .readFlush c k e, readPacked c k e, ?_⟩
    rw [exec_of_reads h, readCompare, hb]
    rfl
  | data i g p s0 hd h9 hf =>
    obtain ⟨n, rfl⟩ : ∃ n, s0 = s.drew n := by
      cases hd
      · exact ⟨0, rfl⟩
      · exact ⟨0, rfl⟩
      · exact ⟨0, rfl⟩
      · exact ⟨0, rfl⟩
      · exact ⟨_, rfl⟩
      · exact ⟨_, rfl⟩
    refine ⟨n, .storeRoom p, afterRoom (9 * p.length) (putBits (frame9 false p)), ?_⟩
    rw [exec_of_delivers hd, deliver, show (s.drew n).bus = .spi from hb]
    show Host.Outcome.next (spiDeliver p _) = _
    rw [spiDeliver, if_pos (by exact h9), store9, checkRoom, if_pos (by exact hf)]

/-- A block that runs no program takes a step of the dispatcher (R46, R363). -/
theorem step_of_notRunning {s : State} (h : s.run = .idle ∨ s.run = .done ∨ s.run = .aborted) :
    step s = dispatcherStep s := by
  unfold step
  rcases h with h | h | h <;> rw [h]

/-- The next stream of a triple is the first whose adapter is present (R351, R184). -/
theorem nextBus_present (c : Cfg) (pre rest : List Bus) (b : Bus) (h : ∀ x ∈ pre, hasBus c x = false)
    (hb : hasBus c b = true) : nextBus c (pre ++ b :: rest) = some (b, rest) := by
  induction pre with
  | nil => simp [nextBus, hb]
  | cons x r ih =>
    simp only [List.mem_cons, forall_eq_or_imp] at h
    simp [nextBus, h.1, ih h.2]

/-- With no present adapter left a triple has no next stream (R351). -/
theorem nextBus_absent (c : Cfg) (l : List Bus) (h : ∀ x ∈ l, hasBus c x = false) : nextBus c l = none := by
  induction l with
  | nil => rfl
  | cons x r ih =>
    simp only [List.mem_cons, forall_eq_or_imp] at h
    simp [nextBus, h.1, ih h.2]

end Sys2Proof.Machine
end

