-- ==== Sys2Proof/Laws/Subst.lean ====
section
/-! SUPPORT. Field substitution: what the writes of CMD bits leave stored, marked and unchanged. -/

namespace Sys2Proof.Machine

/-- Writes of CMD bits change CMD and its marks, nothing else (R324). -/
theorem setCmdBits_eq (b : Nat) (l : List Bool) (s : State) :
    setCmdBits b l s = { s with cmd := (setCmdBits b l s).cmd, cmdw := (setCmdBits b l s).cmdw } := by
  induction l generalizing b s with
  | nil => rfl
  | cons x r ih => rw [setCmdBits, ih]; rfl

/-- Writes of CMD bits keep CMD canonical. -/
theorem wf_cmd_setCmdBits (b : Nat) (l : List Bool) (s : State) (h : s.cmd.wf = true) : (setCmdBits b l s).cmd.wf = true := by
  induction l generalizing b s with
  | nil => exact h
  | cons x r ih => exact ih _ _ (Memory.wf_write _ _ _ h)

/-- Writes of CMD bits below bit 256 list no address outside CMD (R325). -/
theorem range_cmd_setCmdBits (b : Nat) (l : List Bool) (s : State) (hb : b + l.length ≤ cmdBits)
    (h : ∀ c ∈ s.cmd, c.1 < cmdSize) : ∀ c ∈ (setCmdBits b l s).cmd, c.1 < cmdSize := by
  induction l generalizing b s with
  | nil => exact h
  | cons x r ih =>
    simp only [List.length_cons] at hb
    refine ih _ _ (by omega) (Memory.range_write _ _ _ _ ?_ h)
    simp only [cmdBits, cmdSize] at *
    omega

/-- A bit of CMD as stored, after one bit is written (R44). -/
theorem storedCmdBit_setCmdBit (b : Nat) (x : Bool) (s : State) (h : s.cmd.wf = true) (k : Nat) :
    storedCmdBit (setCmdBit b x s) k = if k = b then x else storedCmdBit s k := by
  unfold storedCmdBit setCmdBit
  rw [Memory.read_write _ _ _ _ h]
  by_cases hb : k / 8 = b / 8
  · rw [if_pos hb, getLsbD_setBit _ _ _ _ (by omega), hb]
    by_cases hk : k = b
    · subst hk; simp
    · rw [if_neg (by omega), if_neg hk]
  · rw [if_neg hb, if_neg (by intro hk; exact hb (by rw [hk]))]

/-- A written mark after one bit below 256 is written (R43). -/
theorem getLsbD_cmdw_setCmdBit (b : Nat) (x : Bool) (s : State) (hb : b < cmdBits) (k : Nat) :
    (setCmdBit b x s).cmdw.getLsbD k = (s.cmdw.getLsbD k || decide (k = b)) := by
  simp only [cmdBits] at hb
  unfold setCmdBit
  rw [BitVec.getLsbD_or, BitVec.getLsbD_shiftLeft, BitVec.getLsbD_one]
  congr 1
  by_cases hk : k = b
  · subst hk; simp [hb]
  · simp only [hk, decide_false, Bool.and_eq_false_iff]
    by_cases hlt : k < b
    · simp [hlt]
    · right; simp; omega

/-- A bit of CMD as stored, after a field is written (R324). -/
theorem storedCmdBit_setCmdBits (b : Nat) (l : List Bool) (s : State) (h : s.cmd.wf = true) (k : Nat) :
    storedCmdBit (setCmdBits b l s) k
      = if b ≤ k ∧ k < b + l.length then l.getD (k - b) false else storedCmdBit s k := by
  induction l generalizing b s with
  | nil => rw [setCmdBits, if_neg (by simp only [List.length_nil]; omega)]
  | cons x r ih =>
    rw [setCmdBits, ih _ _ (Memory.wf_write _ _ _ h), storedCmdBit_setCmdBit _ _ _ h, List.length_cons]
    by_cases hk : k = b
    · subst hk; rw [if_neg (by omega), if_pos rfl, if_pos (by omega)]; simp
    · by_cases hr : b ≤ k ∧ k < b + (r.length + 1)
      · rw [if_pos (by omega), if_pos hr, show k - b = (k - (b + 1)) + 1 by omega, List.getD_cons_succ]
      · rw [if_neg (by omega), if_neg hk, if_neg hr]

/-- The written marks after a field below bit 256 is written (R43, R324). -/
theorem getLsbD_cmdw_setCmdBits (b : Nat) (l : List Bool) (s : State) (hb : b + l.length ≤ cmdBits) (k : Nat) :
    (setCmdBits b l s).cmdw.getLsbD k = (s.cmdw.getLsbD k || decide (b ≤ k ∧ k < b + l.length)) := by
  induction l generalizing b s with
  | nil => simp [setCmdBits]
  | cons x r ih =>
    simp only [List.length_cons] at hb
    rw [setCmdBits, ih _ _ (by omega), getLsbD_cmdw_setCmdBit _ _ _ (by omega), Bool.or_assoc, List.length_cons]
    congr 1
    rw [← Bool.decide_or]
    exact decide_eq_decide.mpr (by omega)

/-- A field never passes bit 255 (R325). -/
theorem fieldLen_le (ds dl : Byte) : ds.toNat + fieldLen ds dl ≤ cmdBits := by
  have := ds.isLt
  simp only [fieldLen, cmdBits]
  omega

/-- What a substitution leaves (R324, R326): the source bits in the field, everything else as before. -/
theorem cmdWrite_field (ds dl : Byte) (val : Word) (ss : Nat) (s : State) (h : s.cmd.wf = true) :
    FieldWritten s (cmdWrite ds dl val ss s) ds.toNat (fieldLen ds dl) (fun i => srcBit val ss i s.draws) := by
  have hle := fieldLen_le ds dl
  have hd : (s.drew (fieldLen ds dl)).cmd.wf = true := h
  refine ⟨?_, ?_, ?_⟩
  · rw [cmdWrite, setCmdBits_eq]; rfl
  · intro i hi
    rw [cmdWrite, storedCmdBit_setCmdBits _ _ _ hd, getLsbD_cmdw_setCmdBits _ _ _ (by simpa using hle)]
    simp [hi]
  · intro b _ hb
    rw [cmdWrite, storedCmdBit_setCmdBits _ _ _ hd, getLsbD_cmdw_setCmdBits _ _ _ (by simpa using hle)]
    have : ¬ (ds.toNat ≤ b ∧ b < ds.toNat + fieldLen ds dl) := by omega
    simp only [List.length_map, List.length_range, this, if_false, decide_false, Bool.or_false]
    exact ⟨rfl, rfl⟩

end Sys2Proof.Machine
end

