-- ==== Sys2Proof/Tests/Slice0.lean ====
section
/-! SUPPORT. The model's own tests. Expected values come from the spec's vectors (95_test_vectors.md) and its examples, cited by
their name; a test cited to a rule is worked out by hand from that rule. Then, for every statement with hypotheses, a theorem
`test_meets_<Name>` that shows concrete values meeting them together. -/

namespace Sys2Proof.Tests

open Sys2Proof.Machine

/-! ### WellFormed refuses ill-formed terms -/

/-- R103: an inline payload has 1 to 59 bytes. -/
theorem test_wellFormed_inline : (Instr.inlineDcs []).wellFormed = false ∧ (Instr.inlineGeneric []).wellFormed = false ∧
    (Instr.inlineDcs (List.replicate 60 0)).wellFormed = false ∧
    (Instr.inlineGeneric (List.replicate 60 0)).wellFormed = false ∧
    (Instr.inlineDcs (List.replicate 59 0)).wellFormed = true := by decide

/-- R108: L is one byte. -/
theorem test_wellFormed_length : (Instr.dcsLength (List.replicate 256 0)).wellFormed = false ∧
    (Instr.dcsLengthG (List.replicate 256 0)).wellFormed = false ∧
    (Instr.dcsLength (List.replicate 255 0)).wellFormed = true := by
  decide +kernel

/-- R105: a read of width k carries k expected bytes. -/
theorem test_wellFormed_expect : (Instr.dcsRead1 0 []).wellFormed = false ∧ (Instr.dcsRead1G 0 0 [1, 2]).wellFormed = false ∧
    (Instr.dcsRead2 0 [1]).wellFormed = false ∧ (Instr.dcsRead2G 0 0 [1, 2, 3]).wellFormed = false ∧
    (Instr.dcsRead3 0 [1]).wellFormed = false ∧ (Instr.dcsRead3G 0 0 [1]).wellFormed = false ∧
    (Instr.dcsRead4 0 [1]).wellFormed = false ∧ (Instr.dcsRead4G 0 0 [1]).wellFormed = false ∧
    (Instr.dcsRead5 0 [1]).wellFormed = false ∧ (Instr.dcsRead5G 0 0 [1]).wellFormed = false ∧
    (Instr.dcsRead6 0 [1]).wellFormed = false ∧ (Instr.dcsRead6G 0 0 [1]).wellFormed = false ∧
    (Instr.dcsRead7 0 [1]).wellFormed = false ∧ (Instr.dcsRead7G 0 0 [1]).wellFormed = false ∧
    (Instr.dcsRead8 0 [1]).wellFormed = false ∧ (Instr.dcsRead8G 0 0 [1]).wellFormed = false := by decide

/-! ### Decoding, from words written out by R105 and R110 -/

/-- INLINE 11, 00 (V1); INLINE.G B0 (D-1). -/
theorem test_decode_inline : decode [0x02, 0x11, 0x00] = .ok (.inlineDcs [0x11, 0x00]) [] ∧
    decode [0x81, 0xB0, 0x29] = .ok (.inlineGeneric [0xB0]) [0x29] := by decide

/-- S_DCS_LENGTH B2, 0C, 0C (D-3); S_DCS_BUF 2 (V5); their generic forms. -/
theorem test_decode_data : decode [0x3C, 0x03, 0xB2, 0x0C, 0x0C] = .ok (.dcsLength [0xB2, 0x0C, 0x0C]) [] ∧
    decode [0xBC, 0x01, 0x7F, 0x55] = .ok (.dcsLengthG [0x7F]) [0x55] ∧
    decode [0x3D, 0x02] = .ok (.dcsBuf 2) [] ∧ decode [0xBD, 0x18] = .ok (.dcsBufG 24) [] := by decide

/-- S_DELAY 120 (V1); S_DELAY 10 with bit 7 set (C-4); S_MRPS 8 (C-6); the lane filters. -/
theorem test_decode_control : decode [0x3E, 0x78] = .ok (.delay false 120) [] ∧ decode [0xBE, 0x0A] = .ok (.delay true 10) [] ∧
    decode [0x3F, 0x08] = .ok (.mrps false 8) [] ∧ decode [0x48] = .ok (.if1Lane false) [] ∧
    decode [0x49] = .ok (.if2Lanes false) [] ∧ decode [0x4A] = .ok (.if3Lanes false) [] ∧
    decode [0x4B] = .ok (.if4Lanes false) [] ∧ decode [0xCB] = .ok (.if4Lanes true) [] := by decide

/-- S_DCS_READ1 to S_DCS_READ8 (V3, R110). -/
theorem test_decode_reads : decode [0x40, 0x0A, 0x9C] = .ok (.dcsRead1 0x0A [0x9C]) [] ∧
    decode [0x41, 0x04, 0x85, 0x22] = .ok (.dcsRead2 0x04 [0x85, 0x22]) [] ∧
    decode [0x42, 1, 2, 3, 4] = .ok (.dcsRead3 1 [2, 3, 4]) [] ∧
    decode [0x43, 0x0A, 0x78, 0x56, 0x34, 0x12] = .ok (.dcsRead4 0x0A [0x78, 0x56, 0x34, 0x12]) [] ∧
    decode [0x44, 1, 2, 3, 4, 5, 6] = .ok (.dcsRead5 1 [2, 3, 4, 5, 6]) [] ∧
    decode [0x45, 1, 2, 3, 4, 5, 6, 7] = .ok (.dcsRead6 1 [2, 3, 4, 5, 6, 7]) [] ∧
    decode [0x46, 1, 2, 3, 4, 5, 6, 7, 8] = .ok (.dcsRead7 1 [2, 3, 4, 5, 6, 7, 8]) [] ∧
    decode [0x47, 1, 2, 3, 4, 5, 6, 7, 8, 9] = .ok (.dcsRead8 1 [2, 3, 4, 5, 6, 7, 8, 9]) [] := by decide

/-- S_DCS_READ1.G to S_DCS_READ8.G (K-2, R110). -/
theorem test_decode_generic_reads : decode [0xC0, 1, 2, 3] = .ok (.dcsRead1G 1 2 [3]) [] ∧
    decode [0xC1, 0x12, 0x34, 0x85, 0x22] = .ok (.dcsRead2G 0x12 0x34 [0x85, 0x22]) [] ∧
    decode [0xC2, 1, 2, 3, 4, 5] = .ok (.dcsRead3G 1 2 [3, 4, 5]) [] ∧
    decode [0xC3, 1, 2, 3, 4, 5, 6] = .ok (.dcsRead4G 1 2 [3, 4, 5, 6]) [] ∧
    decode [0xC4, 1, 2, 3, 4, 5, 6, 7] = .ok (.dcsRead5G 1 2 [3, 4, 5, 6, 7]) [] ∧
    decode [0xC5, 1, 2, 3, 4, 5, 6, 7, 8] = .ok (.dcsRead6G 1 2 [3, 4, 5, 6, 7, 8]) [] ∧
    decode [0xC6, 1, 2, 3, 4, 5, 6, 7, 8, 9] = .ok (.dcsRead7G 1 2 [3, 4, 5, 6, 7, 8, 9]) [] ∧
    decode [0xC7, 1, 2, 3, 4, 5, 6, 7, 8, 9, 10] = .ok (.dcsRead8G 1 2 [3, 4, 5, 6, 7, 8, 9, 10]) [] := by decide

/-- S_CONST and the timing fields (F-1 to F-10, R110). -/
theorem test_decode_substitution :
    decode [0x4C, 0x00, 0x20, 0x78, 0x56, 0x34, 0x12] = .ok (.constField false 0 32 0x12345678) [] ∧
    decode [0x4D, 0x00, 0x08, 0x00] = .ok (.hsync false 0 8 0) [] ∧ decode [0x4E, 0x01, 0x08, 0x00] = .ok (.hbp false 1 8 0) [] ∧
    decode [0x4F, 0x00, 0x10, 0x04] = .ok (.hactive false 0 16 4) [] ∧ decode [0x50, 0x04, 0x08, 0x00] = .ok (.hfp false 4 8 0) [] ∧
    decode [0x51, 0x10, 0x08, 0x00] = .ok (.vsync false 16 8 0) [] ∧ decode [0xD2, 0x00, 0x08, 0x02] = .ok (.vbp true 0 8 2) [] ∧
    decode [0x53, 0x00, 0x08, 0x08] = .ok (.vactive false 0 8 8) [] ∧ decode [0x54, 0x00, 0x08, 0x00] = .ok (.vfp false 0 8 0) [] :=
  by decide

/-- T2, T3, T4: unknown opcodes; K-12, F-16, C-5, T5: truncated steps; R110: the words of the encoder. -/
theorem test_decode_refuses : decode [0x00] = .unknownOpcode ∧ decode [0xD5] = .unknownOpcode ∧ decode [0x80] = .unknownOpcode ∧
    decode [0x55] = .unknownOpcode ∧ decode [0x47, 1, 1, 2, 3, 4, 5, 6, 7] = .truncated ∧ decode [0x4C, 0x00, 0x08] = .truncated ∧
    decode [0x3E] = .truncated ∧ decode [0x03, 0x11] = .truncated ∧ decode [0x3C, 0x02, 0x11] = .truncated := by decide

/-- R110: the encoder's words. -/
theorem test_encode : encode (.inlineGeneric [0xB0]) = [0x81, 0xB0] ∧ encode (.dcsRead2G 0x12 0x34 [0x85, 0x22]) = [0xC1, 0x12, 0x34, 0x85, 0x22] ∧
    encode (.constField false 8 8 0x2C) = [0x4C, 0x08, 0x08, 0x2C, 0x00, 0x00, 0x00] ∧ encode (.if3Lanes false) = [0x4A] := by decide

/-- A table word is numbered with bit 0 in the first byte: `3E 78` is 0x783E. -/
theorem test_tableWord : decodeTableWord 16 0x783E = some (.delay false 0x78) ∧ decodeTableWord 8 0x3E = some (.delay false 0) ∧
    decodeTableWord 8 0x00 = none := by decide

/-! ### States and results of the tests -/

/-- The timing T1080 of 46_field_subst.md. -/
def t1080 : Timing := ⟨1920, 2008, 2052, 2200, 1080, 1084, 1089, 1125, 0, 0⟩

/-- A configuration with all three adapters, `A` = 0x2A, `hz` = 1000. -/
def cfg (lanes : Nat) (nine : Bool) : Cfg :=
  { blankCfg with
    hasI2c := true, hasMipi := true, hasSpi := true, i2cAddr := 0x2A, spiMaxHz := 1000, spi9bit := nine, dsiLanes := lanes
    timing := t1080 }

/-- A program-entry state on a bus (R411) with 4 lanes, the adapter responses to come, and two sleeps to be ended. -/
def on (b : Bus) (nine : Bool) (answers : List Answer) : State :=
  { State.create (cfg 4 nine) defaultParams with bus := b, run := .running, answers := answers, wakes := 2 }

/-- `s` with the current stream replaced. -/
def withProgram (s : State) (p : List Byte) : State :=
  { s with cfg := { s.cfg with programs := setStream s.cfg.programs s.prog s.bus p } }

/-- The next state of an outcome. -/
def after : StepOutcome → Option State
  | .next s => some s
  | .fault _ => none
  | .refused _ => none

/-- The fault of an outcome. -/
def faultOf : StepOutcome → Option Fault
  | .next _ => none
  | .fault f => some f
  | .refused _ => none

/-- The trace an instruction leaves. -/
def traceOf (i : Instr) (s : State) : Option (List Event) := (after (exec i s)).map (·.trace)

/-- MATCH and the trace an instruction leaves. -/
def readOf (i : Instr) (s : State) : Option (MatchStatus × List Event) := (after (exec i s)).map (fun t => (t.matchSt, t.trace))

/-- The first `n` bytes of CMD an instruction leaves. -/
def cmdOf (n : Nat) (i : Instr) (s : State) : Option (List Byte) := (after (exec i s)).map (fun t => t.cmd.readBytes 0 n)

/-! ### One step of each instruction -/

/-- V1; and R203, R211: the 9-bit word of B0 is `0 10110000`. -/
theorem test_inlineDcs : traceOf (.inlineDcs [0x11, 0x00]) (on .mipi false [.ok []]) = some [.bus (.dcsWrite [0x11, 0x00]) (.ok [])] ∧
    (after (exec (.inlineDcs [0xB0]) (on .spi true []))).map (fun t => (t.cursor, t.tx.readBytes 0 2, t.trace)) = some (9, [0x58, 0x00], []) := by
  decide

/-- D-7: SPI byte mode; V6 (a): 59 bytes in 9-bit mode overflow. -/
theorem test_inlineDcs_spi :
    traceOf (.inlineDcs [0x11, 0x29]) (on .spi false [.ok []]) = some [.bus (.spiTransfer [0x11, 0x29] false 1000) (.ok [])] ∧
    (after (exec (.inlineDcs (List.replicate 59 0)) (on .spi true []))).map (fun t => (t.result, t.trace)) = some (some .einval, []) := by
  decide

/-- D-1, D-2. -/
theorem test_inlineGeneric :
    traceOf (.inlineGeneric [0xB0]) (on .mipi false [.ok []]) = some [.bus (.genericWrite [0xB0]) (.ok [])] ∧
    traceOf (.inlineGeneric [0xB0]) (on .i2c false [.ok []]) = some [.bus (.i2cWrite 0x2A [0xB0]) (.ok [])] := by decide

/-- D-3, D-4. -/
theorem test_dcsLength :
    traceOf (.dcsLength [0xB2, 0x0C, 0x0C]) (on .i2c false [.ok []]) = some [.bus (.i2cWrite 0x2A [0x0C, 0xB2, 0x0C]) (.ok [])] ∧
    faultOf (exec (.dcsLength []) (on .mipi false [])) = some .zeroLength := by decide

/-- D-5 and the generic form on MIPI (R236). -/
theorem test_dcsLengthG :
    traceOf (.dcsLengthG [0x01]) (on .mipi false [.ok []]) = some [.bus (.genericWrite [0x01]) (.ok [])] ∧
    faultOf (exec (.dcsLengthG (List.replicate 65 0)) (on .mipi false [])) = some .payloadTooLong := by decide

/-- F-10: a constant, then its bytes; D-17. -/
theorem test_dcsBuf :
    (after (exec (.constField false 0 32 0x12345678) (on .mipi false [.ok []]))).bind (traceOf (.dcsBuf 4))
      = some [.bus (.dcsWrite [0x78, 0x56, 0x34, 0x12]) (.ok [])] ∧
    faultOf (exec (.dcsBuf 25) (on .mipi false [])) = some .dcsBufTooLong := by decide

/-- R240: the generic form, of V5's bytes; D-4's case. -/
theorem test_dcsBufG :
    (after (exec (.hactive false 0 16 0) (on .mipi false [.ok []]))).bind (traceOf (.dcsBufG 2))
      = some [.bus (.genericWrite [0x80, 0x07]) (.ok [])] ∧
    faultOf (exec (.dcsBufG 0) (on .mipi false [])) = some .zeroLength := by decide

/-- C-1 and R262: `Sleep(0)` waits for nothing; C-2: the pending B0 is flushed as `58 7F` before the sleep. -/
theorem test_delay :
    (after (exec (.delay false 0) { on .mipi false [] with wakes := 0 })).map (fun t => (t.run, t.trace))
      = some (.running, [.sleep 0]) ∧
    (after (exec (.inlineDcs [0xB0]) (on .spi true [.ok []]))).bind (traceOf (.delay false 0))
      = some [.bus (.spiTransfer [0x58, 0x7F] false 1000) (.ok []), .sleep 0] := by decide

/-- C-6, C-7. -/
theorem test_mrps : traceOf (.mrps false 8) (on .mipi false [.ok []]) = some [.bus (.setMaxReturnPacketSize 8) (.ok [])] ∧
    traceOf (.mrps false 8) (on .i2c false [.ok []]) = some [] := by decide

/-- K-8 and K-10: the SPI reads of `40 0A 9C`. -/
theorem test_dcsRead1 :
    readOf (.dcsRead1 0x0A [0x9C]) (on .spi true [.ok [0x00, 0x4E, 0x00]])
      = some (.ok, [.bus (.spiTransfer [0x05, 0x7F, 0xFF] true 1000) (.ok [0x00, 0x4E, 0x00])]) ∧
    readOf (.dcsRead1 0x0A [0x9C]) (on .spi false [.ok [0x00, 0x9C]])
      = some (.ok, [.bus (.spiTransfer [0x0A, 0xFF] true 1000) (.ok [0x00, 0x9C])]) := by decide

/-- K-4, K-7, with a generic command (R175). -/
theorem test_dcsRead1G :
    readOf (.dcsRead1G 1 2 [0x9C]) (on .mipi false [.protocolError [0x00], .ok [0x9C]])
      = some (.ok, [.bus (.genericRead 1 2 1) (.protocolError [0x00]), .bus (.genericRead 1 2 1) (.ok [0x9C])]) ∧
    (after (exec (.dcsRead1G 1 2 [0x9C]) (on .mipi false [.error 5]))).map (·.result) = some (some (.ebus 5)) := by decide

/-- V3 (a) and (b). -/
theorem test_dcsRead2 :
    readOf (.dcsRead2 0x04 [0x85, 0x22]) (on .mipi false [.ok [0x85, 0x22]]) = some (.ok, [.bus (.dcsRead 0x04 2) (.ok [0x85, 0x22])]) ∧
    readOf (.dcsRead2 0x04 [0x85, 0x22]) (on .mipi false [.ok [0x85, 0x23]])
      = some (.mismatch, [.bus (.dcsRead 0x04 2) (.ok [0x85, 0x23])]) := by decide

/-- K-2, K-3. -/
theorem test_dcsRead2G :
    readOf (.dcsRead2G 0x12 0x34 [0x85, 0x22]) (on .mipi false [.ok [0x85, 0x22]])
      = some (.ok, [.bus (.genericRead 0x12 0x34 2) (.ok [0x85, 0x22])]) ∧
    readOf (.dcsRead2G 0x12 0x34 [0x85, 0x22]) (on .i2c false [.ok [0x85, 0x22]])
      = some (.ok, [.bus (.i2cWriteRead 0x2A [0x34, 0x12] 2) (.ok [0x85, 0x22])]) := by decide

/-- R292: a mismatch in the last byte alone. -/
theorem test_dcsRead3 : readOf (.dcsRead3 1 [2, 3, 4]) (on .mipi false [.ok [2, 3, 5]])
    = some (.mismatch, [.bus (.dcsRead 1 3) (.ok [2, 3, 5])]) := by decide

/-- R291, R178: two command bytes, swapped on I²C, in byte order on SPI byte mode (R298). -/
theorem test_dcsRead3G : readOf (.dcsRead3G 1 2 [3, 4, 5]) (on .spi false [.ok [0, 0, 3, 4, 5]])
    = some (.ok, [.bus (.spiTransfer [1, 2, 0xFF, 0xFF, 0xFF] true 1000) (.ok [0, 0, 3, 4, 5])]) := by decide

/-- V7: the comparison is by bytes in stream order. -/
theorem test_dcsRead4 :
    (readOf (.dcsRead4 0x0A [0x78, 0x56, 0x34, 0x12]) (on .mipi false [.ok [0x78, 0x56, 0x34, 0x12]])).map (·.1) = some .ok ∧
    (readOf (.dcsRead4 0x0A [0x78, 0x56, 0x34, 0x12]) (on .mipi false [.ok [0x12, 0x34, 0x56, 0x78]])).map (·.1) = some .mismatch := by
  decide

/-- R294. -/
theorem test_dcsRead4G : readOf (.dcsRead4G 1 2 [3, 4, 5, 6]) (on .mipi false [.ok [3, 4, 5, 6]])
    = some (.ok, [.bus (.genericRead 1 2 4) (.ok [3, 4, 5, 6])]) := by decide

/-- R294. -/
theorem test_dcsRead5 : readOf (.dcsRead5 1 [2, 3, 4, 5, 6]) (on .i2c false [.ok [2, 3, 4, 5, 6]])
    = some (.ok, [.bus (.i2cWriteRead 0x2A [1] 5) (.ok [2, 3, 4, 5, 6])]) := by decide

/-- R294. -/
theorem test_dcsRead5G : readOf (.dcsRead5G 1 2 [3, 4, 5, 6, 7]) (on .mipi false [.ok [3, 4, 5, 6, 8]])
    = some (.mismatch, [.bus (.genericRead 1 2 5) (.ok [3, 4, 5, 6, 8])]) := by decide

/-- R179: a failed I²C read sleeps 10 ms and is retried. -/
theorem test_dcsRead6 : readOf (.dcsRead6 1 [2, 3, 4, 5, 6, 7]) (on .i2c false [.error 9, .ok [2, 3, 4, 5, 6, 7]])
    = some (.ok, [.bus (.i2cWriteRead 0x2A [1] 6) (.error 9), .sleep 10, .bus (.i2cWriteRead 0x2A [1] 6) (.ok [2, 3, 4, 5, 6, 7])]) := by
  decide

/-- R294. -/
theorem test_dcsRead6G : readOf (.dcsRead6G 1 2 [3, 4, 5, 6, 7, 8]) (on .mipi false [.ok [3, 4, 5, 6, 7, 8]])
    = some (.ok, [.bus (.genericRead 1 2 6) (.ok [3, 4, 5, 6, 7, 8])]) := by decide

/-- R294. -/
theorem test_dcsRead7 : readOf (.dcsRead7 1 [2, 3, 4, 5, 6, 7, 8]) (on .mipi false [.ok [2, 3, 4, 5, 6, 7, 8]])
    = some (.ok, [.bus (.dcsRead 1 7) (.ok [2, 3, 4, 5, 6, 7, 8])]) := by decide

/-- R294. -/
theorem test_dcsRead7G : readOf (.dcsRead7G 1 2 [3, 4, 5, 6, 7, 8, 9]) (on .mipi false [.ok [0, 4, 5, 6, 7, 8, 9]])
    = some (.mismatch, [.bus (.genericRead 1 2 7) (.ok [0, 4, 5, 6, 7, 8, 9])]) := by decide

/-- R294; K-11: a mismatch recorded before stays. -/
theorem test_dcsRead8 : readOf (.dcsRead8 1 [2, 3, 4, 5, 6, 7, 8, 9])
      { on .mipi false [.ok [2, 3, 4, 5, 6, 7, 8, 9]] with matchSt := .mismatch }
    = some (.mismatch, [.bus (.dcsRead 1 8) (.ok [2, 3, 4, 5, 6, 7, 8, 9])]) := by decide

/-- R298: 18 command bits, 64 reply bits, 6 padding bits, so 11 bytes; the reply starts at bit 18. -/
theorem test_dcsRead8G : readOf (.dcsRead8G 0 0 [0xFF, 0, 0, 0, 0, 0, 0, 1])
      (on .spi true [.ok [0, 0, 0x3F, 0xC0, 0, 0, 0, 0, 0, 0, 0x40]])
    = some (.ok, [.bus (.spiTransfer [0x00, 0x40, 0x3F, 0xFF, 0xFF, 0xFF, 0xFF, 0xFF, 0xFF, 0xFF, 0xFF] true 1000)
        (.ok [0, 0, 0x3F, 0xC0, 0, 0, 0, 0, 0, 0, 0x40])]) := by decide

/-- R266 with 4 lanes: the filters for 1, 2 and 3 lanes set SKIP, that for 4 leaves it as it was. -/
theorem test_if1Lane : (after (exec (.if1Lane false) (on .mipi false []))).map (·.skip) = some true := by decide

/-- R266. -/
theorem test_if2Lanes : (after (exec (.if2Lanes false) (on .i2c false []))).map (·.skip) = some true := by decide

/-- R266. -/
theorem test_if3Lanes : (after (exec (.if3Lanes true) (on .spi true []))).map (·.skip) = some true := by decide

/-- R266, R267: a match does not clear SKIP. -/
theorem test_if4Lanes : (after (exec (.if4Lanes false) (on .mipi false []))).map (·.skip) = some false ∧
    (after (exec (.if4Lanes false) { on .mipi false [] with skip := true })).map (·.skip) = some true := by decide

/-- F-9; V7: `4C FA 10 FF FF 00 00` sets bits 250 to 255 and no other. -/
theorem test_constField : cmdOf 2 (.constField false 8 8 0x2C) (on .mipi false []) = some [0x00, 0x2C] ∧
    (after (exec (.constField false 0xFA 0x10 0xFFFF) (on .spi true []))).map (fun t => (t.cmd, t.cmdw))
      = some ([(31, 0xFC)], BitVec.allOnes 6 ++ (0 : BitVec 250)) := by decide

/-- F-1. -/
theorem test_hsync : cmdOf 1 (.hsync false 0 8 0) (on .mipi false []) = some [0x2C] := by decide

/-- F-2. -/
theorem test_hbp : cmdOf 1 (.hbp false 0 8 0) (on .mipi false []) = some [0x94] := by decide

/-- F-3, F-12. -/
theorem test_hactive : cmdOf 2 (.hactive false 0 16 0) (on .mipi false []) = some [0x80, 0x07] ∧
    cmdOf 1 (.hactive false 0 8 4) (on .mipi false []) = some [0x78] := by decide

/-- F-4: HFP written over `FF FF` from bit 4. -/
theorem test_hfp : (after (exec (.constField false 0 16 0xFFFF) (on .mipi false []))).bind (cmdOf 2 (.hfp false 4 8 0))
    = some [0x8F, 0xF5] := by decide

/-- F-5. -/
theorem test_vsync : cmdOf 3 (.vsync false 16 8 0) (on .mipi false []) = some [0x00, 0x00, 0x05] := by decide

/-- F-6. -/
theorem test_vbp : cmdOf 1 (.vbp false 0 8 0) (on .mipi false []) = some [0x24] := by decide

/-- F-7. -/
theorem test_vactive : cmdOf 1 (.vactive false 0 8 8) (on .mipi false []) = some [0x04] := by decide

/-- F-8. -/
theorem test_vfp : cmdOf 1 (.vfp false 0 8 0) (on .mipi false []) = some [0x04] := by decide

/-! ### One step of the machine -/

/-- One iteration of the loop (R148): T3 aborts at the unknown opcode, T6 under SKIP, T1 ends. -/
theorem test_step_ends :
    (after (step { withProgram (on .mipi false []) [0x01, 0x29, 0xD5] with pc := 2 })).map (fun t => (t.run, t.result))
      = some (.aborted, some .einval) ∧
    (after (step { withProgram (on .mipi false []) [0x48, 0x03, 0x11] with pc := 1, skip := true })).map (·.result)
      = some (some .einval) ∧
    (after (step (on .mipi false []))).map (fun t => (t.run, t.result)) = some (.done, some .ok) := by decide

/-- V2: the program end flushes `58 2C 60 1F`. -/
theorem test_step_flush :
    (after (step { on .spi true [.ok []] with cursor := 27, tx := [(0, 0x58), (1, 0x2C), (2, 0x60)] })).map (fun t => (t.cursor, t.trace))
      = some (0, [.bus (.spiTransfer [0x58, 0x2C, 0x60, 0x1F] false 1000) (.ok [])]) := by decide

/-- H-2: the malformed stream of an absent adapter is passed over. -/
theorem test_step_triple :
    (after (step { withProgram { on .mipi false [] with prog := .init } [0x01, 0x29] with
        cfg := { (withProgram (on .mipi false []) [0x01, 0x29]).cfg with hasI2c := false }
        run := .idle, requests := [.runTriple .init] })).map (fun t => (t.bus, t.pc, t.run, t.triple.map (·.rest)))
      = some (.mipi, 0, .running, some [.spi]) := by decide

/-- The placed word runs as the first instruction after reset (log 16). -/
theorem test_withFetchWord :
    (after (step (State.reset.withFetchWord 8 0x4B))).map (fun t => (t.skip, t.pc)) = some (true, 1) := by decide +kernel

/-! ### Values that meet the hypotheses of the statements

One theorem a statement, at the boundary values of its clauses. -/

theorem test_meets_DecodeOfEncode : OpcodeMap.default.legal = true ∧ (Instr.inlineDcs [0x11]).wellFormed = true ∧
    (Instr.inlineGeneric (List.replicate 59 0)).wellFormed = true ∧ (Instr.dcsLength []).wellFormed = true ∧
    (Instr.dcsRead8G 1 2 [1, 2, 3, 4, 5, 6, 7, 8]).wellFormed = true := by decide

theorem test_meets_EncodeOfDecode :
    decodeWith OpcodeMap.default [0xBE, 0x0A, 0x29] = .ok (.delay true 0x0A) [0x29] := by decide

theorem test_meets_StepLengthIsBytesConsumed :
    decodeWith OpcodeMap.default [0x4A] = .ok (.if3Lanes false) [] ∧
    decodeWith OpcodeMap.default [0x3C, 0x00, 0x29] = .ok (.dcsLength []) [0x29] := by decide

/-- T8's stream, before its first filter and, with SKIP set, at its second; a step with SKIP clear at the last byte's step. -/
theorem test_meets_StepRunsDecodedInstruction :
    (let s := withProgram (on .mipi false []) [0x48, 0x49, 0x01, 0x29];
      s.run = .running ∧ s.pc < s.program.length ∧ s.skip = false ∧
      decodeWith s.par.opcodes (s.program.drop s.pc) = .ok (.if1Lane false) [0x49, 0x01, 0x29]) ∧
    (let s := { withProgram (on .mipi false []) [0x48, 0x49] with pc := 1, skip := true };
      s.run = .running ∧ s.pc < s.program.length ∧ (Instr.if2Lanes false).isLaneFilter = true ∧
      decodeWith s.par.opcodes (s.program.drop s.pc) = .ok (.if2Lanes false) []) := by decide

/-- T12: a skipped S_DCS_LENGTH; V4 with 2 lanes: a filter and the step after it. -/
theorem test_meets_PassedOverStepHasNoEffect :
    (let s := { withProgram (on .mipi false []) [0x4A, 0x3C, 0x02, 0x11, 0x22] with pc := 1, skip := true };
      s.run = .running ∧ s.pc < s.program.length ∧ s.skip = true ∧ (Instr.dcsLength [0x11, 0x22]).isLaneFilter = false ∧
      decodeWith s.par.opcodes (s.program.drop s.pc) = .ok (.dcsLength [0x11, 0x22]) []) ∧
    (let s := withProgram (on .mipi false []) [0x49, 0x02, 0xAA, 0x01];
      s.run = .running ∧ s.pc < s.program.length ∧ Filters (.if2Lanes false) 2 ∧ s.cfg.dsiLanes ≠ 2 ∧
      (Instr.inlineDcs [0xAA, 0x01]).isLaneFilter = false ∧
      decodeWith s.par.opcodes (s.program.drop s.pc) = .ok (.if2Lanes false) [0x02, 0xAA, 0x01] ∧
      decodeWith s.par.opcodes [0x02, 0xAA, 0x01] = .ok (.inlineDcs [0xAA, 0x01]) []) :=
  ⟨by decide, by decide, by decide, .two false, by decide, by decide, by decide, by decide⟩

/-- T3 and T7. -/
theorem test_meets_UnknownOpcodeAborts :
    (let s := { withProgram (on .mipi false []) [0x01, 0x29, 0xD5] with pc := 2 };
      s.run = .running ∧ s.pc < s.program.length ∧ decodeWith s.par.opcodes (s.program.drop s.pc) = .unknownOpcode) ∧
    (let s := { withProgram (on .mipi false []) [0x48, 0x55] with pc := 1, skip := true };
      s.run = .running ∧ s.pc < s.program.length ∧ decodeWith s.par.opcodes (s.program.drop s.pc) = .unknownOpcode) := by
  decide

/-- T5 and T6. -/
theorem test_meets_TruncatedStepAborts :
    (let s := { withProgram (on .mipi false []) [0x01, 0x29, 0x03, 0x11] with pc := 2 };
      s.run = .running ∧ s.pc < s.program.length ∧ decodeWith s.par.opcodes (s.program.drop s.pc) = .truncated) ∧
    (let s := { withProgram (on .mipi false []) [0x48, 0x03] with pc := 1, skip := true };
      s.run = .running ∧ s.pc < s.program.length ∧ decodeWith s.par.opcodes (s.program.drop s.pc) = .truncated) := by decide

/-- T1 on MIPI and on SPI with nothing pending; 1 and 27 pending bits answered; 512 pending bits failing. -/
theorem test_meets_ProgramEndFoldsResult :
    (let s := on .mipi false []; s.run = .running ∧ s.pc = s.program.length ∧ s.bus ≠ .spi) ∧
    (let s := { on .spi true [] with matchSt := .mismatch }; s.run = .running ∧ s.pc = s.program.length ∧ s.cursor = 0) ∧
    (let s := { on .spi true [.ok []] with cursor := 1 };
      s.run = .running ∧ s.pc = s.program.length ∧ s.bus = .spi ∧ s.cursor ≠ 0 ∧ s.tx.wf = true ∧ s.answers = .ok [] :: []) ∧
    (let s := { on .spi true [.error 5] with cursor := 512, matchSt := .mismatch };
      s.run = .running ∧ s.pc = s.program.length ∧ s.bus = .spi ∧ s.cursor ≠ 0 ∧ s.tx.wf = true ∧
        s.answers = .error 5 :: []) := by decide

theorem test_meets_EveryIterationAdvances :
    (let s := withProgram (on .mipi false []) [0x4B];
      s.run = .running ∧ s.pc ≤ s.program.length ∧ (after (step s)).map (fun t => (t.run, t.pc)) = some (.running, 1)) := by
  decide

theorem test_meets_LaneFiltersCombineByAnd :
    ∀ f ∈ [(Instr.if1Lane false, 1), (Instr.if2Lanes true, 2), (Instr.if3Lanes false, 3), (Instr.if4Lanes false, 4)],
      Filters f.1 f.2 := by
  intro f hf
  simp only [List.mem_cons, List.not_mem_nil, or_false] at hf
  rcases hf with rfl | rfl | rfl | rfl
  · exact .one false
  · exact .two true
  · exact .three false
  · exact .four false

/-- A block whose MIPI write is not answered. -/
def waitingCall : State :=
  { on .mipi false [] with run := .waitBus, wait := some (.mipiWrite (.dcsWrite [0x11])) }

/-- A block whose S_DELAY is not ended. -/
def waitingSleep : State := { on .spi true [] with run := .waitSleep, wait := some .delaySleep, wakes := 0 }

theorem test_waitingCall_inv : waitingCall.Inv where
  txWf := by decide
  rxWf := by decide
  cmdWf := by decide
  txRange := by decide
  rxRange := by decide
  cmdRange := by decide
  cursorLe := by decide
  cursorSpi := by decide
  cursorDone := by decide
  byteAligned := by decide
  aligned := by simp [waitingCall, on, State.create]
  pcLe := by decide
  legal := by decide
  ended := by decide
  waiting := by decide
  waitFits := by
    intro w h
    cases h
    exact ⟨rfl, rfl⟩

theorem test_waitingSleep_inv : waitingSleep.Inv where
  txWf := by decide
  rxWf := by decide
  cmdWf := by decide
  txRange := by decide
  rxRange := by decide
  cmdRange := by decide
  cursorLe := by decide
  cursorSpi := by decide
  cursorDone := by decide
  byteAligned := by decide
  aligned := by simp [waitingSleep, on, State.create]
  pcLe := by decide
  legal := by decide
  ended := by decide
  waiting := by decide
  waitFits := by
    intro w h
    cases h
    exact ⟨rfl, rfl⟩

/-- A 9-bit SPI program at its end, with 9 pending bits. -/
def pendingEnd : State := { on .spi true [] with cursor := 9, tx := [(0, 0x58)] }

theorem test_pendingEnd_inv : pendingEnd.Inv where
  txWf := by decide
  rxWf := by decide
  cmdWf := by decide
  txRange := by decide
  rxRange := by decide
  cmdRange := by decide
  cursorLe := by decide
  cursorSpi := by decide
  cursorDone := by decide
  byteAligned := by decide
  aligned := by simp [pendingEnd, on, State.create]
  pcLe := by decide
  legal := by decide
  ended := by decide
  waiting := by decide
  waitFits := by simp [pendingEnd, on, State.create]

theorem test_meets_StalledBlockStays : (waitingCall.Inv ∧ waitingCall.run = .waitBus ∧ waitingCall.answers = []) ∧
    (waitingSleep.Inv ∧ waitingSleep.run = .waitSleep ∧ waitingSleep.wakes = 0) ∧
    (State.reset.run = .idle ∧ State.reset.triple = none ∧ State.reset.requests = []) :=
  ⟨⟨test_waitingCall_inv, rfl, rfl⟩, ⟨test_waitingSleep_inv, rfl, rfl⟩, rfl, rfl, rfl⟩

/-- An I²C write that fails, is retried after its sleep, and waits for its second answer; the same write in its sleep; a flush
at program end that is not answered; an S_DELAY that is still not ended. -/
theorem test_meets_SuspensionIsTransparent :
    ((on .i2c false []).run = .running ∧ (on .i2c false []).wait = none ∧
      ∃ t, exec (.inlineDcs [1, 2]) { on .i2c false [] with answers := [.error 5] } = .next t ∧ t.run = .waitBus ∧
        t.answers = []) ∧
    ((on .i2c false [.error 5]).run = .running ∧ (on .i2c false [.error 5]).wait = none ∧
      ∃ t, exec (.inlineDcs [1, 2]) { on .i2c false [.error 5] with wakes := 0 } = .next t ∧ t.run = .waitSleep) ∧
    (pendingEnd.Inv ∧ ∃ t, step { pendingEnd with answers := [] } = .next t ∧ t.run = .waitBus ∧ t.answers = []) ∧
    (waitingSleep.Inv ∧ ∃ t, step { waitingSleep with wakes := 0 } = .next t ∧ t.run = .waitSleep) :=
  ⟨⟨rfl, rfl, _, rfl, rfl, rfl⟩, ⟨rfl, rfl, _, rfl, rfl⟩, ⟨test_pendingEnd_inv, _, rfl, rfl, rfl⟩, test_waitingSleep_inv, _, rfl,
    rfl⟩

/-- A data step and a read on each of MIPI and I²C, and S_MRPS, with no answer to come. -/
theorem test_meets_UnansweredCallsWait :
    (let s := on .mipi false [];
      Delivers s (.inlineGeneric [0xB0]) true [0xB0] s ∧ s.bus ≠ .spi ∧ s.bus = .mipi ∧ s.answers = []) ∧
    (let s := on .i2c false []; Delivers s (.dcsBuf 24) false (cmdBytes s 24) (s.drew 192) ∧ s.bus ≠ .spi ∧ s.answers = []) ∧
    Reads (.dcsRead8G 1 2 [1, 2, 3, 4, 5, 6, 7, 8]) 8 (.generic 1 2) [1, 2, 3, 4, 5, 6, 7, 8] :=
  ⟨⟨.inlineGeneric _ (by decide), by decide, rfl, rfl⟩, ⟨.dcsBuf 24 (by decide) (by decide), by decide, rfl⟩, .read8G _ _ _ rfl⟩

/-- A first error on I²C with the sleep not ended and ended; a protocol error on MIPI. -/
theorem test_meets_UnansweredRetriesWait :
    (let s := { on .i2c false [.error 1] with wakes := 0 };
      Delivers s (.inlineDcs [1, 2]) false [1, 2] s ∧ s.bus = .i2c ∧ s.answers = [.error 1] ∧ s.wakes = 0) ∧
    (let s := on .i2c false [.error 1]; s.bus = .i2c ∧ s.answers = [.error 1] ∧ s.wakes = 1 + 1) ∧
    Reads (.dcsRead1 0x0A [0x9C]) 1 (.dcs 0x0A) [0x9C] ∧
    (let s := on .mipi false [.protocolError [0x00]];
      s.bus = .mipi ∧ [(0x00 : Byte)].length = 1 ∧ s.answers = [.protocolError [0x00]]) :=
  ⟨⟨.inlineDcs _ (by decide), rfl, rfl, rfl⟩, ⟨rfl, rfl, rfl⟩, .read1 _ _ rfl, rfl, rfl, rfl⟩

/-- Pending bits before a delay, and 59 bytes behind them; a byte-mode step of 64 bytes; a read in each mode; program end. -/
theorem test_meets_UnansweredTransfersWait :
    (FlushesFirst pendingEnd (.delay false 0) ∧ FlushesFirst pendingEnd (.inlineDcs (List.replicate 59 0)) ∧
      pendingEnd.bus = .spi ∧ pendingEnd.cursor ≠ 0 ∧ pendingEnd.tx.wf = true ∧ pendingEnd.answers = []) ∧
    (let s := on .spi false [];
      Delivers s (.dcsLength (List.replicate 64 0x11)) false (List.replicate 64 0x11) s ∧ s.bus = .spi ∧
      s.cfg.spi9bit = false ∧ s.cursor = 0 ∧ 8 * (List.replicate 64 (0x11 : Byte)).length ≤ txBits ∧ s.tx.wf = true ∧
      s.answers = []) ∧
    Reads (.dcsRead1 0x0A [0x9C]) 1 (.dcs 0x0A) [0x9C] ∧
    (let s := on .spi true []; s.cfg.spi9bit = true ∧ s.cursor = 0 ∧ s.par.spiReadDummyBits ≤ 430 ∧ s.answers = []) ∧
    (pendingEnd.run = .running ∧ pendingEnd.pc = pendingEnd.program.length) :=
  ⟨⟨.delay false 0, .data _ false _ _ (.inlineDcs _ (by decide)) rfl (by decide), rfl, by decide, by decide, rfl⟩,
    ⟨.dcsLength _ (by decide) (.inl rfl), rfl, rfl, rfl, by decide, rfl, rfl⟩, .read1 _ _ rfl,
    ⟨rfl, rfl, Nat.zero_le _, rfl⟩, rfl, rfl⟩

/-- Payloads of 1 and of 64 bytes (MAX_DATA_PAYLOAD), and of 1 and 24 bytes of CMD (DCS_BUF_MAX), answered; a failing write. -/
theorem test_meets_MipiDataSteps :
    (let s := on .mipi false [.ok []];
      Delivers s (.inlineDcs [0x11]) false [0x11] s ∧ Delivers s (.inlineGeneric [0xB0]) true [0xB0] s ∧
      Delivers s (.dcsLength (List.replicate 64 0)) false (List.replicate 64 0) s ∧
      Delivers s (.dcsLengthG [0x01]) true [0x01] s ∧
      Delivers s (.dcsBuf 24) false (cmdBytes s 24) (s.drew 192) ∧ Delivers s (.dcsBufG 1) true (cmdBytes s 1) (s.drew 8) ∧
      s.bus = .mipi ∧ s.answers = .ok [] :: []) ∧
    (let s := on .mipi false [.error 5];
      Delivers s (.inlineDcs [0x11]) false [0x11] s ∧ s.bus = .mipi ∧ s.answers = .error 5 :: []) :=
  ⟨⟨.inlineDcs _ (by decide), .inlineGeneric _ (by decide), .dcsLength _ (by decide) (.inr (by decide)),
      .dcsLengthG _ (by decide) (.inr (by decide)), .dcsBuf 24 (by decide) (by decide), .dcsBufG 1 (by decide) (by decide), rfl,
      rfl⟩, .inlineDcs _ (by decide), rfl, rfl⟩

/-- The three clauses: answered, failing once, failing twice. -/
theorem test_meets_I2cDataSteps : (on .i2c false []).bus = .i2c ∧
    Delivers (on .i2c false [.ok []]) (.inlineDcs [0x10]) false [0x10] (on .i2c false [.ok []]) ∧
    (let s := on .i2c false [.error 1, .ok []];
      Delivers s (.inlineGeneric [0x10, 0x20]) true [0x10, 0x20] s ∧ s.answers = .error 1 :: .ok [] :: [] ∧ s.wakes = 1 + 1) ∧
    (let s := on .i2c false [.error 1, .error 2];
      Delivers s (.dcsLength [1, 2, 3]) false [1, 2, 3] s ∧ s.answers = .error 1 :: .error 2 :: [] ∧ s.wakes = 1 + 1) :=
  ⟨rfl, .inlineDcs _ (by decide), ⟨.inlineGeneric _ (by decide), rfl, rfl⟩,
    .dcsLength _ (by decide) (.inr (by decide)), rfl, rfl⟩

/-- A step on I²C that leaves a new event. -/
theorem test_meets_I2cSwapsFirstTwoBytes : [(0x10 : Byte)].length < 2 ∧ (Instr.inlineDcs [0x10, 0x20]).wellFormed = true ∧
    (on .i2c false [.ok []]).bus = .i2c ∧
    traceOf (.inlineDcs [0x10, 0x20]) (on .i2c false [.ok []]) = some [.bus (.i2cWrite 0x2A [0x20, 0x10]) (.ok [])] ∧
    (on .i2c false [.ok []]).trace = [] := by decide

/-- Payloads of 1 and of 64 bytes, answered and failing. -/
theorem test_meets_SpiByteModeDataSteps :
    (let s := on .spi false [.ok []];
      Delivers s (.inlineDcs [0x11]) false [0x11] s ∧
      Delivers s (.dcsLength (List.replicate 64 0x11)) false (List.replicate 64 0x11) s ∧ s.bus = .spi ∧ s.cfg.spi9bit = false ∧
      s.cursor = 0 ∧ 8 * (List.replicate 64 (0x11 : Byte)).length ≤ txBits ∧ s.tx.wf = true ∧ s.answers = .ok [] :: []) ∧
    (let s := on .spi false [.error 5];
      Delivers s (.inlineGeneric [0x11]) true [0x11] s ∧
      Delivers s (.dcsLengthG (List.replicate 64 0x11)) true (List.replicate 64 0x11) s ∧ s.bus = .spi ∧
      s.cfg.spi9bit = false ∧ s.cursor = 0 ∧ s.tx.wf = true ∧ s.answers = .error 5 :: []) :=
  ⟨⟨.inlineDcs _ (by decide), .dcsLength _ (by decide) (.inl rfl), rfl, rfl, rfl, by decide, rfl, rfl⟩,
    .inlineGeneric _ (by decide), .dcsLengthG _ (by decide) (.inl rfl), rfl, rfl, rfl, rfl, rfl⟩

/-- A payload of 65 bytes. -/
theorem test_meets_SpiByteModeOverflow :
    (let s := on .spi false [];
      Delivers s (.dcsLength (List.replicate 65 0)) false (List.replicate 65 0) s ∧ s.bus = .spi ∧ s.cfg.spi9bit = false ∧
      s.cursor = 0 ∧ 8 * (List.replicate 65 (0 : Byte)).length > txBits) :=
  ⟨.dcsLength _ (by decide) (.inl rfl), rfl, rfl, rfl, by decide⟩

/-- 56 bytes behind 8 pending bits fill the 512 bits exactly; one byte behind 503. -/
theorem test_meets_NineBitDataStepsPack :
    (let s := { on .spi true [] with cursor := 8 };
      Delivers s (.inlineDcs (List.replicate 56 0)) false (List.replicate 56 0) s ∧ s.bus = .spi ∧ s.cfg.spi9bit = true ∧
      s.cursor + 9 * (List.replicate 56 (0 : Byte)).length ≤ txBits ∧ s.tx.wf = true) ∧
    (let s := { on .spi true [] with cursor := 503 };
      Delivers s (.dcsBuf 1) false (cmdBytes s 1) (s.drew 8) ∧ s.cursor + 9 * (cmdBytes s 1).length ≤ txBits) :=
  ⟨⟨.inlineDcs _ (by decide), rfl, rfl, by decide, rfl⟩, .dcsBuf 1 (by decide) (by decide), by decide⟩

/-- D-11's 57 bytes with nothing pending, and behind 9 pending bits (V6). -/
theorem test_meets_NineBitOverflow :
    (let s := on .spi true [];
      Delivers s (.inlineDcs (List.replicate 57 0)) false (List.replicate 57 0) s ∧ s.bus = .spi ∧ s.cfg.spi9bit = true ∧
      9 * (List.replicate 57 (0 : Byte)).length > txBits ∧ s.tx.wf = true ∧ s.cursor = 0) ∧
    (let s := { on .spi true [.ok []] with cursor := 9, tx := [(0, 0x55)] };
      Delivers s (.inlineDcs (List.replicate 59 0)) false (List.replicate 59 0) s ∧ s.bus = .spi ∧ s.cfg.spi9bit = true ∧
      9 * (List.replicate 59 (0 : Byte)).length > txBits ∧ s.tx.wf = true ∧ s.cursor ≠ 0 ∧ s.answers = .ok [] :: []) :=
  ⟨⟨.inlineDcs _ (by decide), rfl, rfl, by decide, rfl, rfl⟩, .inlineDcs _ (by decide), rfl, rfl, by decide, by decide, by decide,
    rfl⟩

/-- A delay, a read, 56 bytes behind 9 pending bits, one bit too many, and 59 bytes, too many by themselves; then each step that
does not flush. -/
theorem test_meets_PendingBitsFlushedFirst :
    (let s := { on .spi true [.ok []] with cursor := 9, tx := [(0, 0x58)] };
      FlushesFirst s (.delay false 0) ∧ FlushesFirst s (.dcsRead1 0x0A [0x9C]) ∧
      FlushesFirst s (.inlineDcs (List.replicate 56 0)) ∧ FlushesFirst s (.inlineDcs (List.replicate 59 0)) ∧ s.bus = .spi ∧ s.cursor ≠ 0 ∧ s.tx.wf = true ∧
      s.answers = .ok [] :: []) ∧
    (let s := on .spi true [];
      s.bus = .spi ∧ Filters (.if1Lane false) 1 ∧ TimingStep s.cfg.timing (.vfp false 0 8 0) 0 8 0 1084 1080 ∧
      (after (exec (.if1Lane false) s)).isSome = true ∧ (after (exec (.vfp false 0 8 0) s)).isSome = true ∧
      (after (exec (.constField false 0 8 0x2A) s)).isSome = true ∧ (after (exec (.mrps false 2) s)).isSome = true) :=
  ⟨⟨.delay false 0, .read _ 1 _ _ (.read1 0x0A [0x9C] rfl),
      .data _ false _ _ (.inlineDcs _ (by decide)) rfl (by decide),
      .data _ false _ _ (.inlineDcs _ (by decide)) rfl (by decide), rfl, by decide, by decide, rfl⟩,
    rfl, .one false, .vfp false 0 8 0, by decide, by decide, by decide, by decide⟩

/-- D-18; and 59 bytes, which would overflow (R384). -/
theorem test_meets_FlushErrorAborts :
    (let s := { on .spi true [.error 5] with cursor := 9, tx := [(0, 0x58)] };
      FlushesFirst s (.delay false 5) ∧ FlushesFirst s (.dcsRead8G 1 2 [1, 2, 3, 4, 5, 6, 7, 8]) ∧
      FlushesFirst s (.dcsLength (List.replicate 56 0)) ∧ FlushesFirst s (.inlineGeneric (List.replicate 59 0)) ∧
      s.bus = .spi ∧ s.cursor ≠ 0 ∧ s.tx.wf = true ∧
      s.answers = .error 5 :: []) :=
  ⟨.delay false 5, .read _ 8 _ _ (.read8G 1 2 _ rfl),
    .data _ false _ _ (.dcsLength _ (by decide) (.inl rfl)) rfl (by decide),
    .data _ true _ _ (.inlineGeneric _ (by decide)) rfl (by decide), rfl, by decide, by decide, rfl⟩

/-- D-4, D-5, D-6, D-17 and the first lengths that do not fault. -/
theorem test_meets_OnlyUnspecifiedLengthsFault :
    faultOf (exec (.dcsLength []) (on .spi true [])) = some .zeroLength ∧
    faultOf (exec (.dcsLength (List.replicate 65 0)) (on .i2c false [])) = some .payloadTooLong ∧
    faultOf (exec (.dcsLength (List.replicate 64 0)) (on .i2c false [])) = none ∧
    faultOf (exec (.dcsLength (List.replicate 65 0)) (on .spi false [])) = none ∧
    faultOf (exec (.dcsBufG 25) (on .spi true [])) = some .dcsBufTooLong ∧
    faultOf (exec (.dcsBufG 0) (on .spi true [])) = some .zeroLength := by decide

/-- Each bus but MIPI. -/
theorem test_meets_GenericFlagIgnored : (on .i2c false []).bus ≠ .mipi ∧ (on .spi true []).bus ≠ .mipi := by decide

theorem test_meets_ConstThenBufEmitsLittleEndian :
    (let s := on .mipi false [.ok []];
      s.bus = .mipi ∧ s.cmd.wf = true ∧ 4 ≤ s.par.dcsBufMax ∧ s.answers = .ok [] :: []) := by decide

/-- Every length at once: lengths 1 and 24, on each kind of bus, with a written bit. -/
theorem test_meets_StoredBitsAreEmitted :
    (let s := { on .mipi false [.ok []] with cmd := [(0, 0x01)], cmdw := 1 };
      1 ≤ (1 : Byte).toNat ∧ (24 : Byte).toNat ≤ s.par.dcsBufMax ∧ s.cmdw.getLsbD 0 = true ∧ s.answers = .ok [] :: []) ∧
    (let s := on .spi false [.ok []];
      s.bus = .spi ∧ s.cfg.spi9bit = false ∧ s.cursor = 0 ∧ (24 : Byte).toNat ≤ txSize ∧ s.tx.wf = true ∧
      s.answers = .ok [] :: []) ∧
    (let s := { on .spi true [] with cursor := 296 };
      s.bus = .spi ∧ s.cfg.spi9bit = true ∧ s.cursor + 9 * (24 : Byte).toNat ≤ txBits ∧ s.tx.wf = true) := by decide

/-- On MIPI, on SPI with nothing pending; a sleep of 0 ms, a sleep ended and a sleep not ended. -/
theorem test_meets_DelaySleeps :
    (let s := on .mipi false []; s.bus ≠ .spi ∧ s.wakes = 1 + 1) ∧ (0 : Byte) = 0 ∧ (255 : Byte) ≠ 0 ∧
    (let s := { on .spi true [] with wakes := 0 }; s.cursor = 0 ∧ s.wakes = 0) := by decide

/-- C-6, C-8, C-7. -/
theorem test_meets_MrpsSetsPacketSize :
    (let s := on .mipi false [.ok []]; s.bus = .mipi ∧ s.answers = .ok [] :: []) ∧
    (let s := on .mipi false [.error 5]; s.bus = .mipi ∧ s.answers = .error 5 :: []) ∧
    (on .i2c false []).bus ≠ .mipi := by decide

/-- The first and the last lane count, matching and not. -/
theorem test_meets_LaneFilterSetsSkip :
    Filters (.if1Lane false) 1 ∧ (on .mipi false []).cfg.dsiLanes ≠ 1 ∧ Filters (.if4Lanes false) 4 ∧
      (on .mipi false []).cfg.dsiLanes = 4 :=
  ⟨.one false, by decide, .four false, rfl⟩

/-- Widths 1 and 8. -/
theorem test_meets_MipiReadsCompare :
    (let s := on .mipi false [.ok [0x9C]];
      Reads (.dcsRead1 0x0A [0x9C]) 1 (.dcs 0x0A) [0x9C] ∧ s.bus = .mipi ∧ s.rx.wf = true ∧ s.answers = .ok [0x9C] :: []) ∧
    (let s := on .mipi false [.ok [1, 2, 3, 4, 5, 6, 7, 9]];
      Reads (.dcsRead8G 1 2 [1, 2, 3, 4, 5, 6, 7, 8]) 8 (.generic 1 2) [1, 2, 3, 4, 5, 6, 7, 8] ∧ s.bus = .mipi ∧
      s.answers = .ok [1, 2, 3, 4, 5, 6, 7, 9] :: []) :=
  ⟨⟨.read1 _ _ rfl, rfl, rfl, rfl⟩, .read8G _ _ _ rfl, rfl, rfl⟩

/-- K-4 and K-5. -/
theorem test_meets_MipiReadsRetryOnce :
    Reads (.dcsRead1 0x0A [0x9C]) 1 (.dcs 0x0A) [0x9C] ∧
    (let s := on .mipi false [.protocolError [0x00], .ok [0x9C]];
      s.bus = .mipi ∧ s.rx.wf = true ∧ s.answers = .protocolError [0x00] :: .ok [0x9C] :: []) ∧
    (let s := on .mipi false [.protocolError [0x00], .protocolError [0x9C]];
      s.bus = .mipi ∧ s.rx.wf = true ∧ s.answers = .protocolError [0x00] :: .protocolError [0x9C] :: []) :=
  ⟨.read1 _ _ rfl, ⟨rfl, rfl, rfl⟩, rfl, rfl, rfl⟩

/-- K-6 and K-7. -/
theorem test_meets_MipiReadForcedOrAborted :
    Reads (.dcsRead1 0x0A [0x9C]) 1 (.dcs 0x0A) [0x9C] ∧
    (let s := on .mipi false [.protocolError [0x00], .error 5];
      s.bus = .mipi ∧ s.rx.wf = true ∧ [(0x00 : Byte)].length = 1 ∧ s.answers = .protocolError [0x00] :: .error 5 :: []) ∧
    (let s := on .mipi false [.error 5]; s.bus = .mipi ∧ s.rx.wf = true ∧ s.answers = .error 5 :: []) :=
  ⟨.read1 _ _ rfl, ⟨rfl, rfl, rfl, rfl⟩, rfl, rfl, rfl⟩

/-- K-3 answered, failing once, failing twice. -/
theorem test_meets_I2cReadsCompare :
    Reads (.dcsRead2G 0x12 0x34 [0x85, 0x22]) 2 (.generic 0x12 0x34) [0x85, 0x22] ∧
    (let s := on .i2c false [.ok [0x85, 0x22]];
      s.bus = .i2c ∧ s.rx.wf = true ∧ s.answers = .ok [0x85, 0x22] :: []) ∧
    (let s := on .i2c false [.error 1, .ok [0x85, 0x22]];
      s.bus = .i2c ∧ s.rx.wf = true ∧ s.answers = .error 1 :: .ok [0x85, 0x22] :: [] ∧ s.wakes = 1 + 1) ∧
    (let s := on .i2c false [.error 1, .error 2];
      s.bus = .i2c ∧ s.rx.wf = true ∧ s.answers = .error 1 :: .error 2 :: [] ∧ s.wakes = 1 + 1) :=
  ⟨.read2G _ _ _ rfl, ⟨rfl, rfl, rfl⟩, ⟨rfl, rfl, rfl, rfl⟩, rfl, rfl, rfl, rfl⟩

/-- K-10. -/
theorem test_meets_SpiByteReadsCompare :
    (let s := on .spi false [.ok [0x00, 0x9C]];
      Reads (.dcsRead1 0x0A [0x9C]) 1 (.dcs 0x0A) [0x9C] ∧ s.bus = .spi ∧ s.cfg.spi9bit = false ∧ s.cursor = 0 ∧ s.tx.wf = true ∧
      s.rx.wf = true ∧ (ReadCommand.dcs 0x0A).bytes ++ List.replicate 1 s.par.spiByteReadFill = [0x0A, 0xFF] ∧
      s.answers = .ok [0x00, 0x9C] :: []) :=
  ⟨.read1 _ _ rfl, rfl, rfl, rfl, rfl, rfl, rfl, rfl⟩

/-- K-8; and the longest read with 430 turnaround bits, which fills the 512 bits. -/
theorem test_meets_SpiNineBitReadsCompare :
    (let s := on .spi true [.ok [0x00, 0x4E, 0x00]];
      Reads (.dcsRead1 0x0A [0x9C]) 1 (.dcs 0x0A) [0x9C] ∧ s.bus = .spi ∧ s.cfg.spi9bit = true ∧ s.cursor = 0 ∧
      s.par.spiReadDummyBits ≤ 430 ∧ s.tx.wf = true ∧ s.rx.wf = true ∧
      [(0x00 : Byte), 0x4E, 0x00].length = ceilDiv (9 * (ReadCommand.dcs 0x0A).bytes.length + s.par.spiReadDummyBits + 8 * 1) 8 ∧
      s.answers = .ok [0x00, 0x4E, 0x00] :: []) ∧
    (let d : List Byte := List.replicate 64 0;
      let s := { on .spi true [.ok d] with par := { defaultParams with spiReadDummyBits := 430 } };
      Reads (.dcsRead8G 1 2 (List.replicate 8 0)) 8 (.generic 1 2) (List.replicate 8 0) ∧ s.bus = .spi ∧ s.cfg.spi9bit = true ∧
      s.cursor = 0 ∧ s.par.spiReadDummyBits ≤ 430 ∧
      d.length = ceilDiv (9 * (ReadCommand.generic 1 2).bytes.length + s.par.spiReadDummyBits + 8 * 8) 8 ∧
      s.answers = .ok d :: []) :=
  ⟨⟨.read1 _ _ rfl, rfl, rfl, rfl, by decide, rfl, rfl, by decide, rfl⟩,
    .read8G _ _ _ rfl, rfl, rfl, rfl, by decide, by decide, rfl⟩

/-- L2's variant, and byte mode. -/
theorem test_meets_SpiReadErrorAborts : Reads (.dcsRead1 0x0A [0x9C]) 1 (.dcs 0x0A) [0x9C] ∧
    (let s := on .spi true [.error 5];
      s.bus = .spi ∧ s.cfg.spi9bit = true ∧ s.cursor = 0 ∧ s.par.spiReadDummyBits ≤ 430 ∧ s.tx.wf = true ∧
      s.answers = .error 5 :: []) ∧
    (let s := on .spi false [.error 5];
      s.bus = .spi ∧ s.cfg.spi9bit = false ∧ s.cursor = 0 ∧ s.par.spiReadDummyBits ≤ 430 ∧ s.tx.wf = true ∧
      s.answers = .error 5 :: []) :=
  ⟨.read1 _ _ rfl, ⟨rfl, rfl, rfl, Nat.zero_le _, rfl, rfl⟩, rfl, rfl, rfl, Nat.zero_le _, rfl, rfl⟩

theorem test_meets_ComparisonIsBytewise : [(0x85 : Byte), 0x22].length = 2 ∧ [(0x85 : Byte), 0x23].length = 2 ∧
    ([] : List Byte).length = 0 := by decide

theorem test_meets_ConstWritesField : (on .mipi false []).cmd.wf = true := by decide

/-- An ordered timing, and one whose two fields are equal. -/
theorem test_meets_TimingStepsWriteField :
    TimingStep t1080 (.hsync false 0 8 0) 0 8 0 2052 2008 ∧ (2008 : Word).toNat ≤ (2052 : Word).toNat ∧
    TimingStep t1080 (.hactive false 255 255 31) 255 255 31 1920 0 ∧
    TimingStep { t1080 with vsyncStart := 1080 } (.vfp false 0 8 0) 0 8 0 1080 1080 ∧ (on .mipi false []).cmd.wf = true :=
  ⟨.hsync false 0 8 0, by decide, .hactive false 255 255 31, .vfp false 0 8 0, rfl⟩

/-- F-15: `hsync_end < hsync_start`. -/
theorem test_meets_UnorderedTimingWritesFreeField :
    (let s := { on .mipi false [] with cfg := { cfg 4 false with timing := { t1080 with hsyncEnd := 2007 } } };
      TimingStep s.cfg.timing (.hsync false 0 8 0) 0 8 0 2007 2008 ∧ (2007 : Word).toNat < (2008 : Word).toNat ∧
      s.cmd.wf = true) :=
  ⟨.hsync false 0 8 0, by decide, rfl⟩

theorem test_meets_AbortKeepsTheRest : (on .mipi false [.error 5]).run = .running ∧
    (after (exec (.inlineDcs [0x11]) (on .mipi false [.error 5]))).map (·.run) = some .aborted := by decide

theorem test_meets_InstructionsKeepWhatIsNotTheirs : (Instr.inlineDcs [0x11]).wellFormed = true ∧
    (after (exec (.inlineDcs [0x11]) (on .mipi false [.ok []]))).isSome = true := by decide

theorem test_meets_EventsRecordAnswers :
    (after (exec (.inlineDcs [0x11]) (on .mipi false [.ok []]))).map (·.trace) = some [.bus (.dcsWrite [0x11]) (.ok [])] := by
  decide

/-- A 9-bit SPI program at its end, and another that differs in TX above CURSOR, in RX and in an unmarked byte of CMD. -/
def scratched : State := { pendingEnd with tx := [(0, 0x58), (63, 0xFF)], rx := [(0, 0x01)], cmd := [(5, 0xAA)] }

theorem test_scratched_inv : scratched.Inv where
  txWf := by decide
  rxWf := by decide
  cmdWf := by decide
  txRange := by decide
  rxRange := by decide
  cmdRange := by decide
  cursorLe := by decide
  cursorSpi := by decide
  cursorDone := by decide
  byteAligned := by decide
  aligned := by simp [scratched, pendingEnd, on, State.create]
  pcLe := by decide
  legal := by decide
  ended := by decide
  waiting := by decide
  waitFits := by simp [scratched, pendingEnd, on, State.create]

theorem test_meets_UnobservableScratchIsUnobservable :
    (Instr.inlineDcs [0xB0]).wellFormed = true ∧ pendingEnd.Inv ∧ scratched.Inv ∧ pendingEnd.cursor ≤ txBits ∧
      pendingEnd.par.spiReadDummyBits ≤ 430 ∧ SameView pendingEnd scratched :=
  ⟨by decide, test_pendingEnd_inv, test_scratched_inv, by decide, by decide, rfl, by decide,
    fun b _ h => by
      have h0 : ((0 : BitVec 256).getLsbD b) = true := h
      simp at h0⟩

/-- The first stream; no adapter at all; the stream after another; no stream left. -/
theorem test_meets_TripleRunsStreamsInOrder :
    (let s := { on .i2c false [] with run := .idle, requests := [.runTriple .init], cfg := { cfg 4 false with hasI2c := false } };
      s.run = .idle ∧ s.triple = none ∧ s.bound = true ∧ s.requests = .runTriple .init :: [] ∧
      [Bus.i2c, .mipi, .spi] = [.i2c] ++ .mipi :: [.spi] ∧ (∀ x ∈ [Bus.i2c], hasBus s.cfg x = false) ∧ hasBus s.cfg .mipi = true) ∧
    (let s := { State.reset with requests := [.runTriple .disable] };
      s.run = .idle ∧ s.triple = none ∧ s.bound = true ∧ s.requests = .runTriple .disable :: [] ∧
      hasBus s.cfg .i2c = false ∧ hasBus s.cfg .mipi = false ∧ hasBus s.cfg .spi = false) ∧
    (let s := { on .i2c false [] with
        run := .done, result := some .ok, triple := some ⟨.init, [.mipi, .spi], false, .direct⟩ };
      s.run = .done ∧ s.result = some .ok ∧ hasBus s.cfg .mipi = true ∧
      s.triple = some ⟨.init, [] ++ .mipi :: [.spi], false, .direct⟩) ∧
    (let s := { on .spi false [] with run := .done, result := some .ok, triple := some ⟨.init, [], true, .direct⟩ };
      s.run = .done ∧ s.result = some .ok ∧ s.triple = some ⟨.init, [], true, .direct⟩ ∧
      ∀ x ∈ ([] : List Bus), hasBus s.cfg x = false) := by decide

/-- H-1, H-3, H-4. -/
theorem test_meets_TripleShortCircuits :
    (let s := { on .i2c false [] with
        run := .aborted, result := some .einval, triple := some ⟨.init, [.mipi, .spi], false, .direct⟩ };
      s.run = .aborted ∧ s.result = some .einval ∧ s.triple = some ⟨.init, [.mipi, .spi], false, .direct⟩) ∧
    (let s := { on .mipi false [] with
        run := .done, result := some .mismatch, triple := some ⟨.init, [.spi], false, .direct⟩ };
      s.run = .done ∧ s.result = some .mismatch ∧ s.par.tripleStopOnMismatch = true) ∧
    (let s := { on .mipi false [] with
        run := .done, result := some .mismatch, triple := some ⟨.init, [.spi], false, .direct⟩
        par := { defaultParams with tripleStopOnMismatch := false } };
      s.run = .done ∧ s.result = some .mismatch ∧ s.par.tripleStopOnMismatch = false ∧ [Bus.spi] = [] ++ .spi :: [] ∧
      hasBus s.cfg .spi = true) ∧
    (let s := { on .spi false [] with
        run := .done, result := some .mismatch, triple := some ⟨.init, [], false, .direct⟩
        par := { defaultParams with tripleStopOnMismatch := false } };
      s.run = .done ∧ s.result = some .mismatch ∧ s.triple = some ⟨.init, [], false, .direct⟩ ∧
      s.par.tripleStopOnMismatch = false ∧ ∀ x ∈ ([] : List Bus), hasBus s.cfg x = false) ∧
    (let s := { on .i2c false [] with
        run := .done, result := some .mismatch, triple := some ⟨.enable, [.mipi, .spi], false, .enable⟩
        par := { defaultParams with tripleStopOnMismatch := false } };
      s.run = .done ∧ s.result = some .mismatch ∧ s.triple = some ⟨.enable, [.mipi, .spi], false, .enable⟩ ∧
      s.par.tripleStopOnMismatch = false ∧ [Bus.mipi, .spi] = [] ++ .mipi :: [.spi] ∧ hasBus s.cfg .mipi = true) := by decide

/-- A step that ends its program while an earlier result stands in RESULT, one that does not, and one that faults. -/
theorem test_meets_EarlierResultIsNotRead :
    (let s := { on .mipi false [] with result := some .mismatch };
      s.run = .running ∧ (after (step s)).map (fun t => (t.run, t.result)) = some (.done, some .ok)) ∧
    (let s := { withProgram (on .mipi false []) [0x4B] with result := some (.ebus 5) };
      s.run = .running ∧ (after (step s)).map (fun t => (t.run, t.result)) = some (.running, some (.ebus 5))) ∧
    (let s := withProgram (on .mipi false []) [0x3C, 0x00]; s.run = .running ∧ faultOf (step s) = some .zeroLength) := by
  decide

/-- V7's second prepare; a disable, an enable and an unprepare with nothing to do. -/
theorem test_meets_LifecycleIdempotent :
    (let s := { on .i2c false [] with run := .done, prepared := true, enabled := true, requests := [.transition .prepare, .transition .enable] };
      s.run = .done ∧ s.triple = none ∧ s.bound = true ∧ s.requests = .transition .prepare :: [.transition .enable] ∧
      s.prepared = true ∧ s.enabled = true) ∧
    (let s := { on .i2c false [] with run := .idle, requests := [.transition .disable, .transition .unprepare] };
      s.run = .idle ∧ s.triple = none ∧ s.bound = true ∧ s.requests = .transition .disable :: [.transition .unprepare] ∧
      s.prepared = false ∧ s.enabled = false) := by decide

/-- Each transition that does something, with all adapters and with none. -/
theorem test_meets_TransitionsAct :
    (let s := { on .i2c false [] with run := .idle, requests := [.transition .powerUp] };
      s.run = .idle ∧ s.triple = none ∧ s.bound = true ∧ s.requests = .transition .powerUp :: [] ∧ s.prepared = false ∧
      s.enabled = false ∧ Starts s .prepare .prepare .init
        [.enableRegulator, .assertPrepareEnable, .deassertReset, .wait s.cfg.delays.prepare] ∧
      Starts s .enable .enable .enable [] ∧ [Bus.i2c, .mipi, .spi] = [] ++ .i2c :: [.mipi, .spi] ∧ hasBus s.cfg .i2c = true) ∧
    (let s := { State.reset with
        run := .done, prepared := true, enabled := true, requests := [.transition .disable, .transition .unprepare] };
      s.run = .done ∧ s.triple = none ∧ s.bound = true ∧
      s.requests = .transition .disable :: [.transition .unprepare] ∧ s.prepared = true ∧
      Starts s .disable .disable .disable [.blankBacklight, .wait s.cfg.delays.disable] ∧ hasBus s.cfg .i2c = false ∧
      hasBus s.cfg .mipi = false ∧ hasBus s.cfg .spi = false) :=
  ⟨⟨rfl, rfl, rfl, rfl, rfl, rfl, .prepare rfl, .enable rfl, rfl, rfl⟩, rfl, rfl, rfl, rfl, rfl, .disable rfl, rfl, rfl, rfl⟩

/-- A prepare whose last stream ends; an enable and a disable that meet an error; a prepare that stops at a mismatch, an enable
whose last stream mismatches, and a disable that has remembered a mismatch. -/
theorem test_meets_LifecycleOutcomes :
    (let s := { on .spi false [] with run := .done, result := some .ok, triple := some ⟨.init, [], false, .prepare⟩ };
      s.triple = some ⟨.init, [], false, .prepare⟩ ∧ s.run = .done ∧ s.result = some .ok ∧
      ∀ x ∈ ([] : List Bus), hasBus s.cfg x = false) ∧
    (let s := { on .mipi false [] with
        run := .aborted, result := some (.ebus 5), triple := some ⟨.enable, [.spi], false, .enable⟩ };
      s.triple = some ⟨.enable, [.spi], false, .enable⟩ ∧ s.run = .aborted ∧ s.result = some (.ebus 5)) ∧
    (let s := { on .i2c false [] with
        run := .aborted, result := some .einval, triple := some ⟨.disable, [.mipi, .spi], false, .disable⟩ };
      s.triple = some ⟨.disable, [.mipi, .spi], false, .disable⟩ ∧ s.run = .aborted ∧ s.result = some .einval) ∧
    (let s := { on .mipi false [] with
        run := .done, result := some .mismatch, triple := some ⟨.init, [.spi], false, .prepare⟩ };
      s.triple = some ⟨.init, [.spi], false, .prepare⟩ ∧ s.run = .done ∧ s.result = some .mismatch ∧
      s.par.tripleStopOnMismatch = true) ∧
    (let s := { on .spi false [] with
        run := .done, result := some .mismatch, triple := some ⟨.enable, [], false, .enable⟩
        par := { defaultParams with tripleStopOnMismatch := false } };
      s.triple = some ⟨.enable, [], false, .enable⟩ ∧ s.run = .done ∧ s.result = some .mismatch ∧
      s.par.tripleStopOnMismatch = false ∧ ∀ x ∈ ([] : List Bus), hasBus s.cfg x = false) ∧
    (let s := { on .spi false [] with run := .done, result := some .ok, triple := some ⟨.disable, [], true, .disable⟩ };
      s.triple = some ⟨.disable, [], true, .disable⟩ ∧ s.run = .done ∧ s.result = some .ok ∧
      ∀ x ∈ ([] : List Bus), hasBus s.cfg x = false) := by decide

/-- A legal bind, one that defers, one with 5 lanes. -/
theorem test_meets_BindOutcomes :
    (let s := { State.reset with bound := false, requests := [.bind (cfg 4 false) defaultParams ⟨true, true, true⟩] };
      s.run = .idle ∧ s.triple = none ∧ s.bound = false ∧
      s.requests = .bind (cfg 4 false) defaultParams ⟨true, true, true⟩ :: [] ∧ configLegal (cfg 4 false) defaultParams = true) ∧
    ((cfg 1 true).hasSpi = true ∧ (Available.mk true true false).spi = false ∧ configLegal (cfg 1 true) defaultParams = true) ∧
    configLegal (cfg 5 false) defaultParams = false ∧ configLegal (cfg 0 false) defaultParams = false := by decide

/-- An unbind after a program; a bind of a bound instance; a RunTriple and an unbind of none. -/
theorem test_meets_UnbindAndForbiddenRequests :
    (let s := { on .spi true [] with run := .aborted, requests := [.unbind] };
      s.run = .aborted ∧ s.triple = none ∧ s.requests = .unbind :: [] ∧ s.bound = true) ∧
    (let s := { State.reset with requests := [.bind blankCfg defaultParams ⟨true, true, true⟩] };
      s.run = .idle ∧ s.triple = none ∧ s.bound = true ∧
      s.requests = .bind blankCfg defaultParams ⟨true, true, true⟩ :: []) ∧
    (let s := { State.reset with bound := false, requests := [.runTriple .init, .unbind] };
      s.run = .idle ∧ s.triple = none ∧ s.bound = false ∧ s.requests = .runTriple .init :: [.unbind] ∧
      ∀ c p a, Request.runTriple .init ≠ .bind c p a) :=
  ⟨⟨rfl, rfl, rfl, rfl⟩, ⟨rfl, rfl, rfl, rfl⟩, rfl, rfl, rfl, rfl, fun _ _ _ h => nomatch h⟩

theorem test_meets_ConfigurationIsFixed : (after (step State.reset)).isSome = true := by decide

theorem test_meets_StepKeepsInv : waitingCall.Inv ∧ (after (step waitingCall)).isSome = true :=
  ⟨test_waitingCall_inv, by decide⟩

end Sys2Proof.Tests
end

/-! PROOFS. Facts every family of statements uses: what the decoder consumes, what an instruction does as one of six shared
operations, and the case lemmas of the operations that choose by bus. -/

namespace Sys2Proof

/-! ### What the decoder consumes -/

/-- A body consumes the bytes its format asks for. `len` is what the step has beside the body. -/
theorem takeBody_consumes {n len : Nat} {r rest : List Byte} {f : List Byte → Instr} {i : Instr}
    (h : takeBody n r f = .ok i rest) (hf : ∀ p, p.length = n → (f p).stepLen = len + n) :
    len + r.length = i.stepLen + rest.length := by
  obtain ⟨p, hp, rfl, rfl⟩ := takeBody_eq_ok h
  rw [hf p hp, List.length_append]
  omega

theorem decodeLength_consumes {r rest : List Byte} {f : List Byte → Instr} {i : Instr}
    (h : decodeLength f r = .ok i rest) (hf : ∀ p, (f p).stepLen = 2 + p.length) :
    1 + r.length = i.stepLen + rest.length := by
  cases r with
  | nil => cases h
  | cons l r =>
    have := takeBody_consumes (len := 2) h (fun p hp => by rw [hf, hp])
    rw [List.length_cons]
    omega

theorem decodeArg_consumes {r rest : List Byte} {f : Byte → Instr} {i : Instr} (h : decodeArg f r = .ok i rest)
    (hf : ∀ b, (f b).stepLen = 2) : 1 + r.length = i.stepLen + rest.length := by
  cases r with
  | nil => cases h
  | cons b r =>
    cases h
    rw [hf, List.length_cons]
    omega

theorem decodeRead_consumes {k : Nat} {g : Bool} {r rest : List Byte} {dcs : Byte → List Byte → Instr}
    {gen : Byte → Byte → List Byte → Instr} {i : Instr} (h : decodeRead k g dcs gen r = .ok i rest)
    (hdcs : ∀ c0 e, (dcs c0 e).stepLen = 2 + k) (hgen : ∀ c0 c1 e, (gen c0 c1 e).stepLen = 3 + k) :
    1 + r.length = i.stepLen + rest.length := by
  cases r with
  | nil => cases h
  | cons c0 r =>
    cases g with
    | false =>
      have := takeBody_consumes h (fun e _ => hdcs c0 e)
      rw [List.length_cons]
      omega
    | true =>
      cases r with
      | nil => cases h
      | cons c1 r =>
        have := takeBody_consumes h (fun e _ => hgen c0 c1 e)
        simp only [List.length_cons]
        omega

theorem decodeConst_consumes {x : Bool} {r rest : List Byte} {i : Instr} (h : decodeConst x r = .ok i rest) :
    1 + r.length = i.stepLen + rest.length := by
  unfold decodeConst at h
  split at h
  · cases h
    simp only [Instr.stepLen, List.length_cons]
    omega
  · cases h

theorem decodeTiming_consumes {r rest : List Byte} {f : Byte → Byte → Byte → Instr} {i : Instr}
    (h : decodeTiming f r = .ok i rest) (hf : ∀ ds dl ss, (f ds dl ss).stepLen = 4) :
    1 + r.length = i.stepLen + rest.length := by
  unfold decodeTiming at h
  split at h
  · cases h
    simp only [hf, List.length_cons]
    omega
  · cases h

theorem decodeNamed_consumes {o : OpName} {g : Bool} {r rest : List Byte} {i : Instr}
    (h : decodeNamed o g r = .ok i rest) : 1 + r.length = i.stepLen + rest.length := by
  cases o with
  | dcsLength => exact decodeLength_consumes h (fun p => by cases g <;> rfl)
  | dcsBuf => exact decodeArg_consumes h (fun l => by cases g <;> rfl)
  | delay | mrps => exact decodeArg_consumes h (fun _ => rfl)
  | dcsRead1 | dcsRead2 | dcsRead3 | dcsRead4 | dcsRead5 | dcsRead6 | dcsRead7 | dcsRead8 =>
    exact decodeRead_consumes h (fun _ _ => rfl) (fun _ _ _ => rfl)
  | if1Lane | if2Lanes | if3Lanes | if4Lanes => cases h; rfl
  | constField => exact decodeConst_consumes h
  | hsync | hbp | hactive | hfp | vsync | vbp | vactive | vfp => exact decodeTiming_consumes h (fun _ _ _ => rfl)

/-- A decoded step and the bytes after it are all the bytes there were (R106). -/
theorem decodeWith_consumes {m : OpcodeMap} {bytes rest : List Byte} {i : Instr}
    (h : decodeWith m bytes = .ok i rest) : bytes.length = i.stepLen + rest.length := by
  cases bytes with
  | nil => cases h
  | cons op r =>
    rw [List.length_cons, Nat.add_comm]
    rw [decodeWith] at h
    split at h
    · exact takeBody_consumes h (fun p hp => by rw [← hp]; cases opGeneric op <;> rfl)
    · split at h
      · exact decodeNamed_consumes h
      · cases h

end Sys2Proof

namespace Sys2Proof.Machine

/-! ### What an instruction does -/

/-- The six operations an instruction can be, with the state each leads to from `s`. A delivery and a substitution start
after the free values the step has drawn. -/
inductive Does (s : State) : State → Prop
  | deliver (g : Bool) (p : List Byte) (n : Nat) : Does s (deliver g p (s.drew n))
  | delay (ms : Nat) : Does s (if s.bus = .spi then delayFlush ms s else delaySleep ms s)
  | mrps (n : Byte) : Does s (if s.bus = .mipi then mipiWrite (.setMaxReturnPacketSize n) s else s)
  | read (k : Nat) (c : ReadCommand) (e : List Byte) (hk : k ≤ 8) : Does s (readCompare k c e s)
  | filter (k : Nat) : Does s (laneSkip k s)
  | field (ds dl : Byte) (val : Word) (ss n : Nat) : Does s (cmdWrite ds dl val ss (s.drew n))

theorem sendLength_does {g : Bool} {p : List Byte} {s t : State} (h : sendLength g p s = .next t) : Does s t := by
  unfold sendLength at h
  split at h
  · cases h
  · split at h
    · cases h
    · cases h
      exact .deliver g p 0

theorem sendBuf_does {g : Bool} {l : Byte} {s t : State} (h : sendBuf g l s = .next t) : Does s t := by
  unfold sendBuf at h
  split at h
  · cases h
  · split at h
    · cases h
    · cases h
      exact .deliver g _ _

/-- An instruction that does not stop is one of the six operations. -/
theorem exec_does {i : Instr} {s t : State} (h : exec i s = .next t) : Does s t := by
  cases i with
  | inlineDcs p => cases h; exact .deliver false p 0
  | inlineGeneric p => cases h; exact .deliver true p 0
  | dcsLength p | dcsLengthG p => exact sendLength_does h
  | dcsBuf l | dcsBufG l => exact sendBuf_does h
  | delay x ms => cases h; exact .delay _
  | mrps x n => cases h; exact .mrps n
  | dcsRead1 c0 e | dcsRead2 c0 e | dcsRead3 c0 e | dcsRead4 c0 e | dcsRead5 c0 e | dcsRead6 c0 e | dcsRead7 c0 e
  | dcsRead8 c0 e => cases h; exact .read _ (.dcs c0) e (by decide)
  | dcsRead1G c0 c1 e | dcsRead2G c0 c1 e | dcsRead3G c0 c1 e | dcsRead4G c0 c1 e | dcsRead5G c0 c1 e
  | dcsRead6G c0 c1 e | dcsRead7G c0 c1 e | dcsRead8G c0 c1 e => cases h; exact .read _ (.generic c0 c1) e (by decide)
  | if1Lane | if2Lanes | if3Lanes | if4Lanes => cases h; exact .filter _
  | constField x ds dl val => cases h; exact .field ds dl val 0 0
  | hsync x ds dl ss | hbp x ds dl ss | hactive x ds dl ss | hfp x ds dl ss | vsync x ds dl ss | vbp x ds dl ss
  | vactive x ds dl ss | vfp x ds dl ss => cases h; exact .field ds dl _ ss.toNat 1

/-! ### Operations that choose by bus, mode or room -/

/-- A delivery is a write of the interface BUS names (R231). -/
theorem deliver_ind {Q : State → Prop} (g : Bool) (p : List Byte) (s : State)
    (hmipi : s.bus = .mipi → Q (mipiWrite (if g then .genericWrite p else .dcsWrite p) s))
    (hi2c : s.bus = .i2c → Q (i2cWrite (.i2cWrite s.cfg.i2cAddr (swap p)) s))
    (hspi : s.bus = .spi → Q (spiDeliver p s)) : Q (deliver g p s) := by
  unfold deliver
  split
  · next h => exact hmipi h
  · next h => exact hi2c h
  · next h => exact hspi h

/-- A read is a read of the interface BUS names (R293). -/
theorem readCompare_ind {Q : State → Prop} (k : Nat) (c : ReadCommand) (e : List Byte) (s : State)
    (hmipi : s.bus = .mipi → Q (mipiRead (mipiReadCall k c) k e s))
    (hi2c : s.bus = .i2c → Q (i2cRead (.i2cWriteRead s.cfg.i2cAddr (swap c.bytes) k) k e s))
    (hspi : s.bus = .spi → Q (spiRead c k e s)) : Q (readCompare k c e s) := by
  unfold readCompare
  split
  · next h => exact hmipi h
  · next h => exact hi2c h
  · next h => exact hspi h

/-- After the flush of a 9-bit append the append fails above the capacity, or is made (R204). -/
theorem afterRoom_ind {Q : State → Prop} (n : Nat) (k : State → State) (s : State)
    (hover : n > txBits → Q (s.abort .einval .overflow)) (hfit : n ≤ txBits → Q (k s)) : Q (afterRoom n k s) := by
  unfold afterRoom
  split
  · next h => exact hover h
  · next h => exact hfit (by omega)

/-- An SPI delivery packs by the mode of the configuration (R208). -/
theorem spiDeliver_ind {Q : State → Prop} (p : List Byte) (s : State)
    (h9 : s.cfg.spi9bit = true → Q (store9 p s))
    (h8 : s.cfg.spi9bit = false → Q (storeBytes p (flush false .byteWrite id) s)) : Q (spiDeliver p s) := by
  unfold spiDeliver
  split
  · next h => exact h9 h
  · next h => exact h8 (by simpa using h)

/-- An SPI read packs by the mode of the configuration (R298). -/
theorem readPacked_ind {Q : State → Prop} (c : ReadCommand) (k : Nat) (e : List Byte) (s : State)
    (h9 : s.cfg.spi9bit = true → Q (readHigh c k e (putBits (frame9 false c.bytes) s)))
    (h8 : s.cfg.spi9bit = false →
      Q (storeBytes (c.bytes ++ List.replicate k s.par.spiByteReadFill)
        (flush true (.readTransfer8 c k e) (readReply8 c k e)) s)) : Q (readPacked c k e s) := by
  unfold readPacked
  split
  · next h => exact h9 h
  · next h => exact h8 (by simpa using h)

end Sys2Proof.Machine

/-! PROOFS. What an abort leaves (O45) and what TRACE records (O47): two properties an instruction keeps at each of the
small updates it is made of. -/

namespace Sys2Proof.Machine

/-! ### One walk through an instruction -/

/-- A property `mid` of the states inside an instruction and a property `fin` of the states it ends in, each kept by every
small update the instruction is made of. A comparison, a lane filter and a substitution end an instruction. -/
structure Walk (mid fin : State → Prop) : Prop where
  stop : ∀ s, mid s → fin s
  await : ∀ s r w, (r = .waitBus ∨ r = .waitSleep) → mid s → fin (s.await r w)
  abort : ∀ s code cause, (code = .einval ∨ ∃ kind, code = .ebus kind) → mid s → fin (s.abort code cause)
  call : ∀ s c a rest, s.answers = a :: rest → mid s → mid { s with answers := rest, trace := s.trace ++ [.bus c a] }
  sleep : ∀ s ms, mid s → mid (s.emit (.sleep ms))
  wake : ∀ s n, mid s → mid { s with wakes := n }
  draw : ∀ s n, mid s → mid (s.drew n)
  pack : ∀ s tx n, mid s → mid { s with tx := tx, cursor := n }
  receive : ∀ s rx, mid s → mid { s with rx := rx }
  compare : ∀ s d k e, mid s → fin (recordMatch d k e s)
  filter : ∀ s k, mid s → fin (laneSkip k s)
  field : ∀ s b l, mid s → fin (setCmdBits b l s)

namespace Walk

variable {mid fin : State → Prop} (W : Walk mid fin) {s : State}
include W

theorem einval (cause : Cause) (h : mid s) : fin (s.abort .einval cause) := W.abort _ _ _ (.inl rfl) h

theorem ebus (kind : ErrKind) (cause : Cause) (h : mid s) : fin (s.abort (.ebus kind) cause) :=
  W.abort _ _ _ (.inr ⟨kind, rfl⟩) h

theorem bits (l : List Bool) (h : mid s) : mid (putBits l s) := by
  rw [putBits_eq]
  exact W.pack _ _ _ h

theorem reply (d : List Byte) (k : Nat) (e : List Byte) (h : mid s) : fin (compareReply d k e s) :=
  W.compare _ _ _ _ (W.receive _ _ h)

/-! Calls and sleeps. -/

theorem busCall {c : BusCall} {w : Wait} {k : Answer → State → State} (hk : ∀ a t, mid t → fin (k a t)) (h : mid s) :
    fin (busCall c w k s) :=
  busCall_ind c w k s (W.await _ _ _ (.inl rfl) h) (fun a _ ha _ => hk a _ (W.call _ _ _ _ ha h))

theorem sleepThen {ms : Nat} {w : Wait} {k : State → State} (hk : ∀ t, mid t → fin (k t)) (h : mid s) :
    fin (sleepThen ms w k s) :=
  sleepThen_ind ms w k s (fun _ => hk _ (W.sleep _ _ h)) (fun _ => W.await _ _ _ (.inr rfl) (W.sleep _ _ h))
    (fun _ _ _ => hk _ (W.wake _ _ (W.sleep _ _ h)))

/-! MIPI and I²C. -/

theorem mipiWrite (c : BusCall) (h : mid s) : fin (mipiWrite c s) := by
  refine W.busCall (fun a t ht => ?_) h
  cases a with
  | error kind => exact W.ebus kind _ ht
  | ok | protocolError => exact W.stop _ ht

theorem mipiReread (c : BusCall) (k : Nat) (e : List Byte) (h : mid s) : fin (mipiReread c k e s) := by
  refine W.busCall (fun a t ht => ?_) h
  cases a with
  | ok d | protocolError d => exact W.reply d k e ht
  | error => exact W.reply _ k e (W.draw _ _ ht)

theorem mipiRead (c : BusCall) (k : Nat) (e : List Byte) (h : mid s) : fin (mipiRead c k e s) := by
  refine W.busCall (fun a t ht => ?_) h
  cases a with
  | ok d => exact W.reply d k e ht
  | protocolError => exact W.mipiReread c k e ht
  | error kind => exact W.ebus kind _ ht

theorem i2cRewrite (c : BusCall) (h : mid s) : fin (i2cRewrite c s) := by
  refine W.busCall (fun a t ht => ?_) h
  cases a with
  | error kind => exact W.ebus kind _ ht
  | ok | protocolError => exact W.stop _ ht

theorem i2cWrite (c : BusCall) (h : mid s) : fin (i2cWrite c s) := by
  refine W.busCall (fun a t ht => ?_) h
  cases a with
  | error => exact W.sleepThen (fun _ => W.i2cRewrite c) ht
  | ok | protocolError => exact W.stop _ ht

theorem i2cReread (c : BusCall) (k : Nat) (e : List Byte) (h : mid s) : fin (i2cReread c k e s) := by
  refine W.busCall (fun a t ht => ?_) h
  cases a with
  | ok d => exact W.reply d k e ht
  | protocolError => exact W.stop _ ht
  | error kind => exact W.ebus kind _ ht

theorem i2cRead (c : BusCall) (k : Nat) (e : List Byte) (h : mid s) : fin (i2cRead c k e s) := by
  refine W.busCall (fun a t ht => ?_) h
  cases a with
  | ok d => exact W.reply d k e ht
  | protocolError => exact W.stop _ ht
  | error => exact W.sleepThen (fun _ => W.i2cReread c k e) ht

/-! SPI. -/

theorem flush {wantRx : Bool} {w : Wait} {k : State → State} (hk : ∀ t, mid t → fin (k t)) (h : mid s) :
    fin (flush wantRx w k s) := by
  refine flush_ind wantRx w k s (fun _ => hk s h) (fun _ => ?_)
  refine W.busCall (fun a t ht => ?_) (W.bits _ h)
  cases a with
  | ok d =>
    have hrx := W.receive t (if wantRx then t.rx.writeBytes 0 d else t.rx) ht
    exact hk _ (W.pack _ t.tx 0 hrx)
  | protocolError => exact W.stop _ ht
  | error kind => exact W.ebus kind _ ht

theorem checkRoom {n : Nat} {w : Wait} {k : State → State} (hk : ∀ t, mid t → fin (k t)) (h : mid s) :
    fin (checkRoom n w k s) :=
  checkRoom_ind n w k s (fun _ => hk s h)
    (fun _ => W.flush (fun t ht => afterRoom_ind n k t (fun _ => W.einval _ ht) (fun _ => hk t ht)) h)

theorem storeBytes {p : List Byte} {k : State → State} (hk : ∀ t, mid t → fin (k t)) (h : mid s) :
    fin (storeBytes p k s) :=
  storeBytes_ind p k s (fun _ => W.einval _ h) (fun _ => W.einval _ h) (fun _ _ => hk _ (W.bits _ h))

theorem spiDeliver (p : List Byte) (h : mid s) : fin (spiDeliver p s) :=
  spiDeliver_ind p s (fun _ => W.checkRoom (fun _ ht => W.stop _ (W.bits _ ht)) h)
    (fun _ => W.storeBytes (fun _ => W.flush W.stop) h)

theorem readHigh (c : ReadCommand) (k : Nat) (e : List Byte) (h : mid s) : fin (readHigh c k e s) :=
  W.checkRoom (fun _ ht => W.flush (fun _ => W.compare _ _ _ _) (W.bits _ ht)) h

theorem spiRead (c : ReadCommand) (k : Nat) (e : List Byte) (h : mid s) : fin (spiRead c k e s) :=
  W.flush (fun t ht => readPacked_ind c k e t (fun _ => W.readHigh c k e (W.bits _ ht))
    (fun _ => W.storeBytes (fun _ => W.flush (fun _ => W.compare _ _ _ _)) ht)) h

/-! Instructions. -/

theorem delaySleep (ms : Nat) (h : mid s) : fin (delaySleep ms s) := W.sleepThen W.stop h

theorem deliver (g : Bool) (p : List Byte) (h : mid s) : fin (deliver g p s) :=
  deliver_ind g p s (fun _ => W.mipiWrite _ h) (fun _ => W.i2cWrite _ h) (fun _ => W.spiDeliver p h)

theorem readCompare (k : Nat) (c : ReadCommand) (e : List Byte) (h : mid s) : fin (readCompare k c e s) :=
  readCompare_ind k c e s (fun _ => W.mipiRead _ k e h) (fun _ => W.i2cRead _ k e h) (fun _ => W.spiRead c k e h)

/-- What holds before an instruction and is kept by its small updates holds, as `fin`, of the state it leads to. -/
theorem exec {i : Instr} {t : State} (he : exec i s = .next t) (h : mid s) : fin t := by
  cases exec_does he with
  | deliver g p n => exact W.deliver g p (W.draw _ n h)
  | delay ms =>
    split
    · exact W.flush (fun _ => W.delaySleep ms) h
    · exact W.delaySleep ms h
  | mrps n =>
    split
    · exact W.mipiWrite _ h
    · exact W.stop _ h
  | read k c e => exact W.readCompare k c e h
  | filter k => exact W.filter _ k h
  | field ds dl val ss n => exact W.field _ _ _ (W.draw _ _ (W.draw _ n h))

end Walk

/-! ### What an abort leaves -/

/-- PC, SKIP, MATCH, CMD and CMDW are the same in both states. -/
def SameFrame (s t : State) : Prop :=
  t.pc = s.pc ∧ t.skip = s.skip ∧ t.matchSt = s.matchSt ∧ t.cmd = s.cmd ∧ t.cmdw = s.cmdw

/-- If `t` is aborted, its RESULT is a code of R145 and the frame of `s` is left (R385). -/
def AbortLeaves (s t : State) : Prop :=
  t.run = .aborted → (t.result = some .einval ∨ ∃ kind, t.result = some (.ebus kind)) ∧ SameFrame s t

theorem AbortLeaves.of_ne {s t : State} (h : t.run ≠ .aborted) : AbortLeaves s t := fun ha => absurd ha h

/-- Nothing an instruction does before an abort writes the frame, and what ends an instruction otherwise does not abort. -/
theorem walk_abortLeaves (s : State) : Walk (fun t => t.run = .running ∧ SameFrame s t) (AbortLeaves s) where
  stop t h := .of_ne (by simp [h.1])
  await t r w hr _ := .of_ne (by rcases hr with rfl | rfl <;> simp)
  abort t code cause hcode h := fun _ => ⟨by simpa using hcode, h.2⟩
  call _ _ _ _ _ h := h
  sleep _ _ h := h
  wake _ _ h := h
  draw _ _ h := h
  pack _ _ _ h := h
  receive _ _ h := h
  compare t d k e h := .of_ne (by simp [h.1])
  filter t k h := .of_ne (by simp [h.1])
  field t b l h := .of_ne (by simp [h.1])

/-- Settles O45: the frame is carried through the instruction up to the abort. -/
theorem abortKeepsTheRest : Obligations.AbortKeepsTheRest := by
  intro s t i hrun hexec
  exact (walk_abortLeaves s).exec hexec ⟨hrun, rfl, rfl, rfl, rfl, rfl⟩

/-! ### What TRACE records -/

/-- From `s` to `t` events are appended to TRACE that record exactly the responses taken (R14, R48). -/
def Recorded (s t : State) : Prop :=
  ∃ evs : List Event, t.trace = s.trace ++ evs ∧ s.answers = evs.filterMap Event.answer? ++ t.answers

theorem Recorded.refl (s : State) : Recorded s s := ⟨[], by simp, rfl⟩

/-- An answered call records the response it takes. -/
theorem Recorded.call {s t : State} (h : Recorded s t) (c : BusCall) {a : Answer} {rest : List Answer}
    (ha : t.answers = a :: rest) : Recorded s { t with answers := rest, trace := t.trace ++ [.bus c a] } := by
  obtain ⟨evs, htrace, hans⟩ := h
  exact ⟨evs ++ [.bus c a], by simp [htrace], by simp [hans, ha, Event.answer?]⟩

/-- A sleep is an event that takes no response. -/
theorem Recorded.sleep {s t : State} (h : Recorded s t) (ms : Nat) : Recorded s (t.emit (.sleep ms)) := by
  obtain ⟨evs, htrace, hans⟩ := h
  exact ⟨evs ++ [.sleep ms], by simp [htrace], by simp [hans, Event.answer?]⟩

/-- Only calls and sleeps write TRACE, and only calls take responses. -/
theorem walk_recorded (s : State) : Walk (Recorded s) (Recorded s) where
  stop _ h := h
  await _ _ _ _ h := h
  abort _ _ _ _ h := h
  call _ c _ _ ha h := h.call c ha
  sleep _ ms h := h.sleep ms
  wake _ _ h := h
  draw _ _ h := h
  pack _ _ _ h := h
  receive _ _ h := h
  compare _ _ _ _ h := h
  filter _ _ h := h
  field t b l h := by simpa [Recorded] using h

/-- Settles O47: every event an instruction appends is a sleep or an answered call. -/
theorem eventsRecordAnswers : Obligations.EventsRecordAnswers := by
  intro s t i hexec
  exact (walk_recorded s).exec hexec (Recorded.refl s)

end Sys2Proof.Machine

/-! PROOFS. The invariant of the machine is kept by every step (O60). Inside a step RUN is Running and nothing is outstanding,
but the clause `byteAligned` is suspended: `State.Midway` is what is left. Each operation takes a midway state to one with the
invariant, when its continuation does. -/

namespace Sys2Proof.Machine

/-! ### Midway through a step -/

/-- The invariant inside a step: its clauses about buffers, CURSOR, PC and configuration, with RUN Running and nothing
outstanding. A byte-mode data step has bits pending here until it flushes them. -/
structure State.Midway (s : State) : Prop where
  txWf : s.tx.wf = true
  rxWf : s.rx.wf = true
  cmdWf : s.cmd.wf = true
  txRange : ∀ c ∈ s.tx, c.1 < txSize
  rxRange : ∀ c ∈ s.rx, c.1 < rxSize
  cmdRange : ∀ c ∈ s.cmd, c.1 < cmdSize
  cursorLe : s.cursor ≤ txBits
  cursorSpi : s.bus ≠ .spi → s.cursor = 0
  aligned : ∀ f, s.failure = some f → f.cause ≠ .unaligned
  pcLe : s.pc ≤ s.program.length
  legal : configLegal s.cfg s.par = true
  run : s.run = .running
  wait : s.wait = none

theorem State.Inv.wait_eq_none {s : State} (h : s.Inv) (hb : s.run ≠ .waitBus) (hs : s.run ≠ .waitSleep) :
    s.wait = none := by
  by_contra hw
  exact (h.waiting.mp hw).elim hb hs

/-- A waiting step goes on midway (R46). -/
theorem State.Inv.resumed {s : State} (h : s.Inv) : State.Midway { s with run := .running, wait := none } :=
  { h with run := rfl, wait := rfl }

/-- A step begins midway. -/
theorem State.Inv.midway {s : State} (h : s.Inv) (hr : s.run = .running) : s.Midway :=
  { h with run := hr, wait := h.wait_eq_none (by simp [hr]) (by simp [hr]) }

/-! ### Replies an interface allows -/

/-- A MIPI read is answered with as many bytes as it asks for (R173, R174). -/
theorem mipiReadCall_allows_ok {k : Nat} {c : ReadCommand} {d : List Byte}
    (h : (mipiReadCall k c).allows (.ok d) = true) : d.length = k := by
  cases c <;> simpa [mipiReadCall, BusCall.allows] using h

theorem mipiReadCall_allows_protocolError {k : Nat} {c : ReadCommand} {d : List Byte}
    (h : (mipiReadCall k c).allows (.protocolError d) = true) : d.length = k := by
  cases c <;> simpa [mipiReadCall, BusCall.allows] using h

/-- An I²C write_read is answered with as many bytes as it asks for (R177). -/
theorem i2cWriteRead_allows_ok {a : BitVec 7} {tx d : List Byte} {k : Nat}
    (h : (BusCall.i2cWriteRead a tx k).allows (.ok d) = true) : d.length = k := by
  simpa [BusCall.allows] using h

/-- Eight reply bytes fit RX (R41, R290). -/
theorem le_rxSize_of_le_eight {n : Nat} (h : n ≤ 8) : n ≤ rxSize := le_trans h (by decide)

/-- With legal dummy bits a 9-bit read of at most 8 bytes fits the empty packer, to the last bit (R8, R205). -/
theorem read9_fits {s : State} (hl : configLegal s.cfg s.par = true) {k : Nat} (hk : k ≤ 8) (c : ReadCommand) :
    9 * c.bytes.length + (s.par.spiReadDummyBits + 8 * k) ≤ txBits := by
  simp only [configLegal, paramsLegal, Bool.and_eq_true, decide_eq_true_eq] at hl
  have hc : c.bytes.length ≤ 2 := by cases c <;> simp [ReadCommand.bytes]
  simp only [txBits]
  omega

/-! ### A padded transfer -/

@[simp] theorem padded_bus (s : State) : (padded s).bus = s.bus := putBits_bus _ s
@[simp] theorem padded_cfg (s : State) : (padded s).cfg = s.cfg := putBits_cfg _ s
@[simp] theorem padded_par (s : State) : (padded s).par = s.par := putBits_par _ s

/-- Padding drops no pending bit (R201). -/
theorem le_cursor_padded (s : State) : s.cursor ≤ (padded s).cursor := by simp [padded]

/-- A padded flush that is not answered is an outstanding transfer (R46, R201). -/
theorem inTransfer_padded {s : State} (hb : s.bus = .spi) (hc : s.cursor ≠ 0) (w : Wait) :
    ((padded s).await .waitBus w).inTransfer := by
  have hle := le_cursor_padded s
  refine ⟨by simpa using hb, rfl, ?_, ?_⟩
  · simp only [State.await_cursor]
    omega
  · simp [padded_cursor]

namespace State.Midway

variable {s : State} (h : s.Midway)
include h

/-! How a step can end. -/

/-- A step ends in Running with nothing pending in byte mode (R77, R202). -/
theorem running_inv (hb : s.bus = .spi → s.cfg.spi9bit = false → s.cursor = 0) : s.Inv :=
  { h with
    cursorDone := by simp [h.run]
    byteAligned := fun _ => hb
    ended := by simp [h.run]
    waiting := by simp [h.run, h.wait]
    waitFits := by simp [h.wait] }

/-- A step off SPI ends in Running (R147). -/
theorem offSpi_inv (hb : s.bus ≠ .spi) : s.Inv := h.running_inv (fun hs => absurd hs hb)

/-- A step ends with nothing pending. -/
theorem cursorZero_inv (hc : s.cursor = 0) : s.Inv := h.running_inv (fun _ _ => hc)

/-- A 9-bit step ends with any bits pending (R204). -/
theorem nineBit_inv (h9 : s.cfg.spi9bit = true) : s.Inv := h.running_inv (fun _ h8 => by simp [h9] at h8)

/-- A step stops at a call or sleep that fits the state (R46). -/
theorem await_inv {r : RunState} {w : Wait} (hr : r = .waitBus ∨ r = .waitSleep) (hw : w.fits (s.await r w)) :
    (s.await r w).Inv :=
  { h with
    cursorDone := by rcases hr with rfl | rfl <;> simp
    byteAligned := by rcases hr with rfl | rfl <;> simp
    ended := by rcases hr with rfl | rfl <;> simp
    waiting := by simp [hr]
    waitFits := by rintro _ ⟨⟩; exact hw }

/-- A step aborts, but not as unaligned (R202, R381). -/
theorem abort_inv (code : Result) {cause : Cause} (hc : cause ≠ .unaligned) : (s.abort code cause).Inv :=
  { h with
    cursorDone := by simp
    byteAligned := by simp
    aligned := by rintro _ ⟨⟩; exact hc
    ended := by simp
    waiting := by simp [h.wait]
    waitFits := by simp [h.wait] }

/-- A program ends with nothing pending (R147, R210). -/
theorem finish_inv (hc : s.cursor = 0) : (finish s).Inv :=
  { h with
    cursorDone := fun _ => hc
    byteAligned := by simp
    ended := by simp
    waiting := by simp [h.wait]
    waitFits := by simp [h.wait] }

/-! The small updates of a step. -/

/-- Taking inputs, recording events and drawing free values. -/
theorem inputs (tr : List Event) (as : List Answer) (n d : Nat) :
    State.Midway { s with trace := tr, answers := as, wakes := n, draws := d } := { h with }

/-- Reply bytes that fit RX (R41). -/
theorem received {d : List Byte} (hd : d.length ≤ rxSize) : State.Midway { s with rx := s.rx.writeBytes 0 d } :=
  { h with
    rxWf := Memory.wf_writeBytes _ _ _ h.rxWf
    rxRange := Memory.range_writeBytes _ _ _ _ (by omega) h.rxRange }

theorem compared (d : List Byte) (k : Nat) (e : List Byte) : (recordMatch d k e s).Midway := { h with }

/-- Nothing is pending after a transfer (R201). -/
theorem emptied : State.Midway { s with cursor := 0 } :=
  { h with cursorLe := Nat.zero_le _, cursorSpi := fun _ => rfl }

/-- Bits that fit TX, on SPI (R200). -/
theorem putBits {l : List Bool} (hb : s.bus = .spi) (hc : s.cursor + l.length ≤ txBits) : (putBits l s).Midway := by
  have hrange := range_tx_putBits l s hc h.txRange
  have hwf := wf_tx_putBits l s h.txWf
  rw [putBits_eq] at hrange hwf ⊢
  exact { h with txWf := hwf, txRange := hrange, cursorLe := hc, cursorSpi := fun hn => absurd hb hn }

/-- Bits that fit CMD (R324). -/
theorem setCmdBits {b : Nat} {l : List Bool} (hb : b + l.length ≤ cmdBits) : (setCmdBits b l s).Midway := by
  have hrange := range_cmd_setCmdBits b l s hb h.cmdRange
  have hwf := wf_cmd_setCmdBits b l s h.cmdWf
  rw [setCmdBits_eq] at hrange hwf ⊢
  exact { h with cmdWf := hwf, cmdRange := hrange }

/-- A substitution writes inside CMD (R325). -/
theorem cmdWrite (ds dl : Byte) (val : Word) (ss : Nat) : (cmdWrite ds dl val ss s).Midway :=
  (h.inputs _ _ _ _).setCmdBits (by simpa using fieldLen_le ds dl)

/-! ### Calls, sleeps and replies -/

/-- The reply of a MIPI or I²C read, off SPI (R41, R294). -/
theorem compareReply_inv (hb : s.bus ≠ .spi) {d : List Byte} (hd : d.length ≤ rxSize) (k : Nat) (e : List Byte) :
    (compareReply d k e s).Inv :=
  ((h.received hd).compared d k e).offSpi_inv hb

/-- A bus call that stays outstanding fits, or its step goes on after an allowed response. -/
theorem busCall_inv {c : BusCall} {w : Wait} {k : Answer → State → State} (hw : w.fits (s.await .waitBus w))
    (hk : ∀ a t, c.allows a = true → t.Midway → t.bus = s.bus → (k a t).Inv) : (busCall c w k s).Inv :=
  busCall_ind c w k s (h.await_inv (.inl rfl) hw) (fun a _ _ ha => hk a _ ha (h.inputs _ _ _ _) rfl)

/-- A sleep that is not ended fits, or its step goes on. -/
theorem awaitWake_inv {w : Wait} {k : State → State} (hw : w.fits (s.await .waitSleep w))
    (hk : ∀ t, t.Midway → t.bus = s.bus → t.cursor = s.cursor → (k t).Inv) : (awaitWake w k s).Inv :=
  awaitWake_ind w k s (h.await_inv (.inr rfl) hw) (fun _ _ => hk _ (h.inputs _ _ _ _) rfl rfl)

theorem sleepThen_inv {ms : Nat} {w : Wait} {k : State → State}
    (hw : w.fits ((s.emit (.sleep ms)).await .waitSleep w))
    (hk : ∀ t, t.Midway → t.bus = s.bus → t.cursor = s.cursor → (k t).Inv) : (sleepThen ms w k s).Inv := by
  have hemit : (s.emit (.sleep ms)).Midway := h.inputs _ _ _ _
  unfold sleepThen
  split
  · next h0 => subst h0; exact hk _ hemit rfl rfl
  · exact hemit.awaitWake_inv hw hk

/-! ### MIPI -/

theorem mipiWrite_inv (hb : s.bus = .mipi) (c : BusCall) : (mipiWrite c s).Inv := by
  refine h.busCall_inv ⟨hb, rfl⟩ (fun a t _ ht htb => ?_)
  cases a with
  | error => exact ht.abort_inv _ (by decide)
  | ok | protocolError => exact ht.offSpi_inv (by simp [htb, hb])

theorem mipiReread_inv (hb : s.bus = .mipi) {k : Nat} (hk : k ≤ 8) (rc : ReadCommand) (e : List Byte) :
    (mipiReread (mipiReadCall k rc) k e s).Inv := by
  refine h.busCall_inv ⟨hb, rfl, hk, rc, rfl⟩ (fun a t ha ht htb => ?_)
  have hoff : t.bus ≠ .spi := by simp [htb, hb]
  have hfit := le_rxSize_of_le_eight hk
  cases a with
  | ok d => exact ht.compareReply_inv hoff (by rwa [mipiReadCall_allows_ok ha]) k e
  | protocolError d => exact ht.compareReply_inv hoff (by rwa [mipiReadCall_allows_protocolError ha]) k e
  | error =>
    have hdrew : (t.drew k).Midway := ht.inputs _ _ _ _
    exact hdrew.compareReply_inv hoff (d := freeBytes t.draws k) (by rwa [length_freeBytes]) k e

theorem mipiRead_inv (hb : s.bus = .mipi) {k : Nat} (hk : k ≤ 8) (rc : ReadCommand) (e : List Byte) :
    (mipiRead (mipiReadCall k rc) k e s).Inv := by
  refine h.busCall_inv ⟨hb, rfl, hk, rc, rfl⟩ (fun a t ha ht htb => ?_)
  cases a with
  | ok d =>
    have hfit := le_rxSize_of_le_eight hk
    exact ht.compareReply_inv (by simp [htb, hb]) (by rwa [mipiReadCall_allows_ok ha]) k e
  | protocolError => exact ht.mipiReread_inv (htb.trans hb) hk rc e
  | error => exact ht.abort_inv _ (by decide)

/-! ### I²C -/

theorem i2cRewrite_inv (hb : s.bus = .i2c) (c : BusCall) : (i2cRewrite c s).Inv := by
  refine h.busCall_inv ⟨hb, rfl⟩ (fun a t _ ht htb => ?_)
  cases a with
  | error => exact ht.abort_inv _ (by decide)
  | ok | protocolError => exact ht.offSpi_inv (by simp [htb, hb])

theorem i2cWrite_inv (hb : s.bus = .i2c) (c : BusCall) : (i2cWrite c s).Inv := by
  refine h.busCall_inv ⟨hb, rfl⟩ (fun a t _ ht htb => ?_)
  have hbt : t.bus = .i2c := htb.trans hb
  cases a with
  | error => exact ht.sleepThen_inv ⟨hbt, rfl⟩ (fun _ hu hub _ => hu.i2cRewrite_inv (hub.trans hbt) c)
  | ok | protocolError => exact ht.offSpi_inv (by simp [hbt])

theorem i2cReread_inv (hb : s.bus = .i2c) {k : Nat} (hk : k ≤ 8) (a : BitVec 7) (tx e : List Byte) :
    (i2cReread (.i2cWriteRead a tx k) k e s).Inv := by
  refine h.busCall_inv ⟨hb, rfl, hk, a, tx, rfl⟩ (fun r t hr ht htb => ?_)
  have hoff : t.bus ≠ .spi := by simp [htb, hb]
  cases r with
  | ok d =>
    have hfit := le_rxSize_of_le_eight hk
    exact ht.compareReply_inv hoff (by rwa [i2cWriteRead_allows_ok hr]) k e
  | protocolError => exact ht.offSpi_inv hoff
  | error => exact ht.abort_inv _ (by decide)

theorem i2cRead_inv (hb : s.bus = .i2c) {k : Nat} (hk : k ≤ 8) (a : BitVec 7) (tx e : List Byte) :
    (i2cRead (.i2cWriteRead a tx k) k e s).Inv := by
  refine h.busCall_inv ⟨hb, rfl, hk, a, tx, rfl⟩ (fun r t hr ht htb => ?_)
  have hbt : t.bus = .i2c := htb.trans hb
  cases r with
  | ok d =>
    have hfit := le_rxSize_of_le_eight hk
    exact ht.compareReply_inv (by simp [hbt]) (by rwa [i2cWriteRead_allows_ok hr]) k e
  | protocolError => exact ht.offSpi_inv (by simp [hbt])
  | error =>
    exact ht.sleepThen_inv ⟨hbt, rfl, hk, a, tx, rfl⟩
      (fun _ hu hub _ => hu.i2cReread_inv (hub.trans hbt) hk a tx e)

/-! ### SPI -/

/-- Padding to the byte boundary stays inside TX (R34, R201). -/
theorem padded (hb : s.bus = .spi) : (padded s).Midway := by
  have hle := h.cursorLe
  refine h.putBits hb ?_
  simp only [txBits, List.length_replicate, ceilDiv] at *
  omega

/-- A flush that waits fits; one that is answered, or has nothing to send, goes on with nothing pending (R201). -/
theorem flush_inv (hb : s.bus = .spi) {wantRx : Bool} {w : Wait} {k : State → State}
    (hw : State.inTransfer ((Machine.padded s).await .waitBus w) → w.fits ((Machine.padded s).await .waitBus w))
    (hk : ∀ t, t.Midway → t.bus = .spi → t.cfg = s.cfg → t.par = s.par → t.cursor = 0 → (k t).Inv) :
    (flush wantRx w k s).Inv := by
  refine flush_ind wantRx w k s (fun hc => hk s h hb rfl rfl hc) (fun hc => ?_)
  have hp := h.padded hb
  refine spiTransfer_ind _ wantRx w k _ (hp.await_inv (.inl rfl) (hw (inTransfer_padded hb hc w))) ?_ ?_
  · intro kind rest _
    exact (hp.inputs _ _ _ _).abort_inv _ (by cases wantRx <;> decide)
  · intro d rest _ hd
    refine hk _ ?_ (by simpa using hb) (by simp) (by simp) rfl
    cases wantRx with
    | false => exact { hp.emptied with }
    | true =>
      have hfit : d.length ≤ rxSize := by
        have := h.cursorLe
        simp only [if_true, ceilDiv, txBits, rxSize] at *
        omega
      exact { hp.emptied.received hfit with }

/-- A 9-bit data step (R203, R204). -/
theorem store9_inv (hb : s.bus = .spi) (h9 : s.cfg.spi9bit = true) (p : List Byte) : (store9 p s).Inv := by
  have hput : ∀ t : State, t.Midway → t.bus = .spi → t.cfg = s.cfg → t.cursor + 9 * p.length ≤ txBits →
      (Machine.putBits (frame9 false p) t).Inv := fun t ht htb hcfg hc =>
    (ht.putBits htb (by simpa using hc)).nineBit_inv (by simpa [hcfg] using h9)
  refine checkRoom_ind _ _ _ s (hput s h hb rfl) (fun hfull => ?_)
  refine h.flush_inv hb (fun ht => ⟨ht, by simpa using h9, ?_⟩) (fun t ht htb hcfg _ hc => ?_)
  · have := le_cursor_padded s
    simp only [await_cursor]
    omega
  · exact afterRoom_ind _ _ t (fun _ => ht.abort_inv _ (by decide)) (fun hn => hput t ht htb hcfg (by omega))

/-- A byte-mode store with nothing pending is aligned (R202). -/
theorem storeBytes_inv (hb : s.bus = .spi) (hc : s.cursor = 0) {p : List Byte} {k : State → State}
    (hk : ∀ t, t.Midway → t.bus = .spi → t.cfg = s.cfg → t.cursor = 8 * p.length → (k t).Inv) :
    (storeBytes p k s).Inv :=
  storeBytes_ind p k s (fun hu => absurd (by rw [hc]) hu) (fun _ => h.abort_inv _ (by decide))
    (fun _ hfit => hk _ (h.putBits hb (by rwa [length_flatMap_bits8])) (by simpa using hb) (by simp)
      (by rw [putBits_cursor, length_flatMap_bits8, hc, Nat.zero_add]))

theorem byteFlush_inv (hb : s.bus = .spi) : (flush false .byteWrite id s).Inv :=
  h.flush_inv hb id (fun _ ht _ _ _ hc => ht.cursorZero_inv hc)

theorem finishFlush_inv (hb : s.bus = .spi) : (flush false .finish finish s).Inv :=
  h.flush_inv hb id (fun _ ht _ _ _ hc => ht.finish_inv hc)

/-- A 9-bit SPI read waits with bits enough for its reply (R204, R298). -/
theorem readTransfer9_inv (hb : s.bus = .spi) (h9 : s.cfg.spi9bit = true) {c : ReadCommand} {k : Nat}
    (hc : 9 * c.bytes.length + s.par.spiReadDummyBits + 8 * k ≤ s.cursor) (e : List Byte) :
    (flush true (.readTransfer9 c k e) (readReply9 c k e) s).Inv := by
  refine h.flush_inv hb (fun ht => ⟨ht, by simpa using h9, ?_⟩)
    (fun t ht _ _ _ h0 => (ht.compared _ k e).cursorZero_inv h0)
  have := le_cursor_padded s
  simp only [await_cursor, await_par, padded_par]
  omega

/-- A byte-mode SPI read waits with bytes enough for its reply (R298). -/
theorem readTransfer8_inv (hb : s.bus = .spi) (h8 : s.cfg.spi9bit = false) {c : ReadCommand} {k : Nat}
    (hc : 8 * (c.bytes.length + k) ≤ s.cursor) (e : List Byte) :
    (flush true (.readTransfer8 c k e) (readReply8 c k e) s).Inv :=
  h.flush_inv hb (fun ht => ⟨ht, by simpa using h8, le_trans hc (le_cursor_padded s)⟩)
    (fun _ ht _ _ _ h0 => (ht.compared _ k e).cursorZero_inv h0)

/-- A 9-bit SPI read never meets `CheckRoom`'s flush (R205). -/
theorem readHigh_inv (hb : s.bus = .spi) (h9 : s.cfg.spi9bit = true) {c : ReadCommand} {k : Nat} (hk : k ≤ 8)
    (hc : s.cursor = 9 * c.bytes.length) (e : List Byte) : (readHigh c k e s).Inv := by
  have hfit := read9_fits h.legal hk c
  refine checkRoom_ind _ _ _ s (fun _ => ?_) (fun hfull => absurd hfull (by omega))
  have hput := h.putBits (l := List.replicate (s.par.spiReadDummyBits + 8 * k) true) hb (by simpa [hc] using hfit)
  refine hput.readTransfer9_inv (by simpa using hb) (by simpa using h9) ?_ e
  simp only [putBits_par, putBits_cursor, List.length_replicate]
  omega

theorem readPacked_inv (hb : s.bus = .spi) (hc : s.cursor = 0) {k : Nat} (hk : k ≤ 8) (c : ReadCommand) (e : List Byte) :
    (readPacked c k e s).Inv := by
  refine readPacked_ind c k e s (fun h9 => ?_) (fun h8 => ?_)
  · have hfit := read9_fits h.legal hk c
    have hput := h.putBits (l := frame9 false c.bytes) hb (by rw [length_frame9]; omega)
    exact hput.readHigh_inv (by simpa using hb) (by simpa using h9) hk (by simp [hc]) e
  · refine h.storeBytes_inv hb hc (fun t ht htb hcfg htc => ?_)
    exact ht.readTransfer8_inv htb (by rw [hcfg, h8]) (by simp [htc]) e

theorem spiRead_inv (hb : s.bus = .spi) {k : Nat} (hk : k ≤ 8) (c : ReadCommand) (e : List Byte) : (spiRead c k e s).Inv :=
  h.flush_inv hb (fun ht => ⟨ht, hk⟩) (fun _ ht htb _ _ htc => ht.readPacked_inv htb htc hk c e)

/-! ### Delays and program end -/

theorem delaySleep_inv (hc : s.cursor = 0) (ms : Nat) : (delaySleep ms s).Inv :=
  h.sleepThen_inv ⟨rfl, hc⟩ (fun _ ht _ htc => ht.cursorZero_inv (htc.trans hc))

theorem delayFlush_inv (hb : s.bus = .spi) (ms : Nat) : (delayFlush ms s).Inv :=
  h.flush_inv hb id (fun _ ht _ _ _ hc => ht.delaySleep_inv hc ms)

theorem endProgram_inv : (endProgram s).Inv := by
  unfold endProgram
  split
  · next hb => exact h.finishFlush_inv hb
  · next hb => exact h.finish_inv (h.cursorSpi hb)

end State.Midway

/-! ### Instructions -/

namespace State.Inv

variable {s : State} (h : s.Inv)
include h

theorem drew (n : Nat) : (s.drew n).Inv := { h with }

theorem deliver (hr : s.run = .running) (g : Bool) (p : List Byte) : (deliver g p s).Inv := by
  have hm := h.midway hr
  refine deliver_ind g p s (fun hb => hm.mipiWrite_inv hb _) (fun hb => hm.i2cWrite_inv hb _) (fun hb => ?_)
  exact spiDeliver_ind p s (fun h9 => hm.store9_inv hb h9 p)
    (fun h8 => hm.storeBytes_inv hb (h.byteAligned hr hb h8) (fun _ ht htb _ _ => ht.byteFlush_inv htb))

theorem readCompare (hr : s.run = .running) {k : Nat} (hk : k ≤ 8) (c : ReadCommand) (e : List Byte) :
    (readCompare k c e s).Inv := by
  have hm := h.midway hr
  exact readCompare_ind k c e s (fun hb => hm.mipiRead_inv hb hk c e) (fun hb => hm.i2cRead_inv hb hk _ _ e)
    (fun hb => hm.spiRead_inv hb hk c e)

/-- Every instruction keeps the invariant, well-formed or not. -/
theorem exec (hr : s.run = .running) {i : Instr} {t : State} (he : exec i s = .next t) : t.Inv := by
  have hm := h.midway hr
  have hbyte := h.byteAligned hr
  cases exec_does he with
  | deliver g p n => exact (h.drew n).deliver hr g p
  | delay ms =>
    split
    · next hb => exact hm.delayFlush_inv hb ms
    · next hb => exact hm.delaySleep_inv (hm.cursorSpi hb) ms
  | mrps n =>
    split
    · next hb => exact hm.mipiWrite_inv hb _
    · exact h
  | read k c e hk => exact h.readCompare hr hk c e
  | filter k => exact { h with }
  | field ds dl val ss n =>
    exact ((h.drew n).midway hr |>.cmdWrite ds dl val ss).running_inv (by simpa [Machine.cmdWrite] using hbyte)

/-! ### The sequencer -/

theorem runStep (hr : s.run = .running) {i : Instr} {t : State} (he : runStep i s = .next t) : t.Inv := by
  unfold Machine.runStep at he
  split at he
  · exact h.exec hr he
  · split at he
    · cases he
      exact { h with }
    · exact h.exec hr he

/-- A PC inside the program keeps the invariant of a running block, whatever step offset is recorded (R31, R381). -/
theorem fetched {n : Nat} (hn : n ≤ s.program.length) (a : Nat) :
    State.Inv { s with stepAt := a, pc := n } :=
  { h with pcLe := hn }

theorem sequencerStep (hr : s.run = .running) {t : State} (hs : sequencerStep s = .next t) : t.Inv := by
  have hpc := h.pcLe
  unfold Machine.sequencerStep at hs
  split at hs
  · cases hs
    exact ((h.fetched hpc s.pc).midway hr).endProgram_inv
  · split at hs
    · cases hs
      exact ((h.fetched (n := s.pc + 1) (by omega) s.pc).midway hr).abort_inv _ (by decide)
    · cases hs
      exact ((h.fetched (n := pcAtEnd s) (by unfold pcAtEnd; omega) s.pc).midway hr).abort_inv _ (by decide)
    · next i rest hd =>
      have hlen := decodeWith_consumes hd
      rw [List.length_drop] at hlen
      exact (h.fetched (n := s.pc + i.stepLen) (by omega) s.pc).runStep hr hs

/-- A waiting step goes on from what it waits at (R46, R76). -/
theorem resume {w : Wait} (hw : w.fits s) : (resume w { s with run := .running, wait := none }).Inv := by
  have hm := h.resumed
  cases w with
  | mipiWrite c => exact hm.mipiWrite_inv hw.1 c
  | mipiRead c k e => obtain ⟨hb, -, hk, rc, rfl⟩ := hw; exact hm.mipiRead_inv hb hk rc e
  | mipiReread c k e => obtain ⟨hb, -, hk, rc, rfl⟩ := hw; exact hm.mipiReread_inv hb hk rc e
  | i2cWrite c => exact hm.i2cWrite_inv hw.1 c
  | i2cWriteSleep c =>
    exact hm.awaitWake_inv ⟨hw.1, rfl⟩ (fun _ ht htb _ => ht.i2cRewrite_inv (htb.trans hw.1) c)
  | i2cRewrite c => exact hm.i2cRewrite_inv hw.1 c
  | i2cRead c k e => obtain ⟨hb, -, hk, a, tx, rfl⟩ := hw; exact hm.i2cRead_inv hb hk a tx e
  | i2cReadSleep c k e =>
    obtain ⟨hb, -, hk, a, tx, rfl⟩ := hw
    exact hm.awaitWake_inv ⟨hb, rfl, hk, a, tx, rfl⟩ (fun _ ht htb _ => ht.i2cReread_inv (htb.trans hb) hk a tx e)
  | i2cReread c k e => obtain ⟨hb, -, hk, a, tx, rfl⟩ := hw; exact hm.i2cReread_inv hb hk a tx e
  | byteWrite => exact hm.byteFlush_inv hw.1
  | storeRoom p => obtain ⟨ht, h9, -⟩ := hw; exact hm.store9_inv ht.1 h9 p
  | delayFlush ms => exact hm.delayFlush_inv hw.1 ms
  | delaySleep => exact hm.awaitWake_inv ⟨rfl, hw.2⟩ (fun _ ht _ htc => ht.cursorZero_inv (htc.trans hw.2))
  | readFlush c k e => obtain ⟨ht, hk⟩ := hw; exact hm.spiRead_inv ht.1 hk c e
  | readRoom c k e => exact hw.elim
  | readTransfer9 c k e => obtain ⟨ht, h9, hc⟩ := hw; exact hm.readTransfer9_inv ht.1 h9 hc e
  | readTransfer8 c k e => obtain ⟨ht, h8, hc⟩ := hw; exact hm.readTransfer8_inv ht.1 h8 hc e
  | finish => exact hm.finishFlush_inv hw.1

theorem resumeStep {t : State} (hs : resumeStep s = .next t) : t.Inv := by
  unfold Machine.resumeStep at hs
  split at hs
  · next w hw => cases hs; exact h.resume (h.waitFits w hw)
  · cases hs; exact h

/-! ### The dispatcher and the host -/

/-- What the host and the dispatcher keep beside the block is no part of the invariant (R360 to R362). -/
theorem hostFields (p e : Bool) (tr : Option Triple) (r : Option Result) (q : List Request) (l : List HostAct) :
    State.Inv { s with prepared := p, enabled := e, triple := tr, reply := r, requests := q, hostLog := l } :=
  { h with }

theorem afterTriple (c : Caller) (r : Result) : (afterTriple c r s).Inv := by
  cases c <;> cases r <;> exact h.hostFields _ _ _ _ _ _

theorem tripleReturn (c : Caller) (r : Result) : (tripleReturn c r s).Inv :=
  (h.hostFields _ _ _ _ _ _).afterTriple c r

/-- A block that waits for nothing enters a program at byte 0 with nothing pending (R411). -/
theorem programEntry (hw : s.wait = none) (name : ProgName) (b : Bus) : (s.programEntry name b).Inv :=
  { h with
    cursorLe := Nat.zero_le _
    cursorSpi := fun _ => rfl
    cursorDone := fun _ => rfl
    byteAligned := fun _ _ _ => rfl
    pcLe := Nat.zero_le _
    ended := by simp
    waiting := by simp [hw]
    waitFits := by simp [hw] }

theorem advanceTriple (hw : s.wait = none) (t : Triple) : (advanceTriple t s).Inv := by
  unfold Machine.advanceTriple
  split
  · next b r _ =>
    have ht := h.hostFields s.prepared s.enabled (some { t with rest := r }) s.reply s.requests s.hostLog
    exact ht.programEntry hw t.name b
  · exact h.tripleReturn _ _

theorem startTriple (hw : s.wait = none) (c : Caller) (name : ProgName) : (startTriple c name s).Inv :=
  h.advanceTriple hw _

theorem streamEnded (hw : s.wait = none) (t : Triple) : (streamEnded t s).Inv := by
  unfold Machine.streamEnded
  split
  · exact h.advanceTriple hw t
  · split
    · exact h.tripleReturn _ _
    · exact h.advanceTriple hw _
  · exact h.tripleReturn _ _
  · exact h.advanceTriple hw t

theorem transition (hw : s.wait = none) (t : Transition) : (transition t s).Inv := by
  have hact : ∀ l, (s.act l).Inv := fun l => h.hostFields _ _ _ _ _ _
  cases t with
  | powerUp | powerDown => exact hact _
  | prepare =>
    rw [Machine.transition]
    split
    · exact h
    · exact (hact _).startTriple hw _ _
  | enable =>
    rw [Machine.transition]
    split
    · exact h
    · exact h.startTriple hw _ _
  | disable =>
    rw [Machine.transition]
    split
    · exact (hact _).startTriple hw _ _
    · exact h
  | unprepare =>
    rw [Machine.transition]
    split
    · exact h.hostFields _ _ _ _ _ _
    · exact h

end State.Inv

/-- A block created with a legal configuration has the invariant (R410). -/
theorem recreate_inv {c : Cfg} {p : Params} (hl : configLegal c p = true) (s : State) : (recreate c p s).Inv where
  txWf := rfl
  rxWf := rfl
  cmdWf := rfl
  txRange := by simp [recreate, State.create]
  rxRange := by simp [recreate, State.create]
  cmdRange := by simp [recreate, State.create]
  cursorLe := Nat.zero_le _
  cursorSpi := fun _ => rfl
  cursorDone := fun _ => rfl
  byteAligned := fun _ _ _ => rfl
  aligned := by simp [recreate, State.create]
  pcLe := Nat.zero_le _
  legal := hl
  ended := by simp [recreate, State.create]
  waiting := by simp [recreate, State.create]
  waitFits := by simp [recreate, State.create]

/-- The blank configuration is legal with any legal parameters (R36). -/
theorem configLegal_blankCfg {c : Cfg} {p : Params} (hl : configLegal c p = true) : configLegal blankCfg p = true := by
  simp only [configLegal, Bool.and_eq_true] at hl ⊢
  simp [blankCfg, streamsFit, hl]

namespace State.Inv

variable {s : State} (h : s.Inv)
include h

/-- A request of the host that is not refused (R362, R412). -/
theorem serve (hw : s.wait = none) {q : Request} {t : State} (hs : serve q s = .next t) : t.Inv := by
  cases q with
  | bind c p a =>
    rw [Machine.serve] at hs
    split at hs
    · cases hs
    · split at hs
      · next hl =>
        split at hs
        · cases hs; exact recreate_inv hl s
        · cases hs; exact h.hostFields _ _ _ _ _ _
      · cases hs
  | unbind =>
    rw [Machine.serve] at hs
    split at hs
    · cases hs
      exact { recreate_inv (configLegal_blankCfg h.legal) s with }
    · cases hs
  | runTriple name =>
    rw [Machine.serve] at hs
    split at hs
    · cases hs; exact h.startTriple hw _ _
    · cases hs
  | transition tr =>
    rw [Machine.serve] at hs
    split at hs
    · cases hs; exact h.transition hw tr
    · cases hs

theorem dispatcherStep (hw : s.wait = none) {t : State} (hs : dispatcherStep s = .next t) : t.Inv := by
  unfold Machine.dispatcherStep at hs
  split at hs
  · cases hs; exact h.streamEnded hw _
  · split at hs
    · next q rest _ =>
      exact (h.hostFields s.prepared s.enabled s.triple s.reply rest s.hostLog).serve hw hs
    · cases hs; exact h

/-- One step keeps the invariant, by RUN (R46). -/
theorem step {t : State} (hs : step s = .next t) : t.Inv := by
  cases hr : s.run with
  | running =>
    rw [Machine.step, hr] at hs
    exact h.sequencerStep hr hs
  | waitBus | waitSleep =>
    rw [Machine.step, hr] at hs
    exact h.resumeStep hs
  | idle | done | aborted =>
    rw [step_of_notRunning (by simp [hr])] at hs
    exact h.dispatcherStep (h.wait_eq_none (by simp [hr]) (by simp [hr])) hs

end State.Inv

/-- Settles O60: one step by RUN, each operation of it taking the invariant, midway or whole, to the invariant. -/
theorem stepKeepsInv : Obligations.StepKeepsInv := fun _ _ h hs => h.step hs

end Sys2Proof.Machine

/-! PROOFS. Two runs side by side: what an instruction, and a step of a running or waiting block, does in two states that
differ only in TX, RX, CMD and RESULT. One walk serves four statements: of the scratch buffers (O48) and of RESULT (O51), and,
with both runs the same, of the state an instruction writes (O46) and of CFG (O57). -/

namespace Sys2Proof.Machine

/-! ### A walk through two runs -/

/-- The first `n` bytes of RX are the same in both states. -/
def RxAgree (n : Nat) (s t : State) : Prop := ∀ a, a < n → t.rx.read a = s.rx.read a

/-- RX is the same in any two states a walk relates. -/
def RxEqual (mid : State → State → Prop) : Prop := ∀ s t, mid s t → t.rx = s.rx

/-- A relation `mid` between the states inside two runs and a relation `fin` between the states they end in, each kept by
every small update a run is made of. `packs` and `reads` say whether the runs may write TX and CURSOR, RX and MATCH. The replies
they compare are the same because RX is, or because the number of dummy bits is legal, so that each lies in the bytes received
(R8, R205). -/
structure TwinWalk (mid fin : State → State → Prop) (packs reads : Prop) : Prop where
  same : ∀ s t, mid s t → t = { s with tx := t.tx, rx := t.rx, cmd := t.cmd, result := t.result }
  readable : RxEqual mid ∨ ∀ s t, mid s t → s.par.spiReadDummyBits ≤ 430
  stop : ∀ s t, mid s t → fin s t
  await : ∀ s t r w, (r = .waitBus ∨ r = .waitSleep) → mid s t → fin (s.await r w) (t.await r w)
  abort : ∀ s t code cause, mid s t → fin (s.abort code cause) (t.abort code cause)
  call : ∀ s t c a rest, mid s t →
    mid { s with answers := rest, trace := s.trace ++ [.bus c a] }
      { t with answers := rest, trace := t.trace ++ [.bus c a] }
  sleep : ∀ s t ms, mid s t → mid (s.emit (.sleep ms)) (t.emit (.sleep ms))
  wake : ∀ s t n, mid s t → mid { s with wakes := n } { t with wakes := n }
  draw : ∀ s t n, mid s t → mid (s.drew n) (t.drew n)
  bits : packs → ∀ s t l, mid s t → mid (putBits l s) (putBits l t)
  sent : packs → ∀ s t n, mid s t → 8 * n ≤ s.cursor → t.tx.readBytes 0 n = s.tx.readBytes 0 n
  emptied : packs → ∀ s t, mid s t → mid { s with cursor := 0 } { t with cursor := 0 }
  receive : reads → ∀ s t d, mid s t →
    mid { s with rx := s.rx.writeBytes 0 d } { t with rx := t.rx.writeBytes 0 d } ∧
      RxAgree d.length { s with rx := s.rx.writeBytes 0 d } { t with rx := t.rx.writeBytes 0 d }
  compare : reads → ∀ s t d k e, mid s t → fin (recordMatch d k e s) (recordMatch d k e t)

/-- The bytes extracted from RX are those below the last bit read (R206). -/
theorem extract_of_rxAgree {n k start : Nat} {s t : State} (h : RxAgree n s t) (hn : start + 8 * k ≤ 8 * n) :
    extract t k start = extract s k start := by
  have hbit : ∀ b, b < start + 8 * k → rxBit t b = rxBit s b := fun b hb => by
    rw [rxBit, rxBit, h _ (by omega)]
  refine List.map_congr_left (fun i hi => ?_)
  have hi : i < k := by simpa using hi
  simp only [byteOf]
  rw [hbit _ (by omega), hbit _ (by omega), hbit _ (by omega), hbit _ (by omega), hbit _ (by omega), hbit _ (by omega),
    hbit _ (by omega), hbit _ (by omega)]

/-- Bytes of RX that agree. -/
theorem readBytes_of_rxAgree {n a k : Nat} {s t : State} (h : RxAgree n s t) (hn : a + k ≤ n) :
    t.rx.readBytes a k = s.rx.readBytes a k :=
  List.map_congr_left (fun i hi => h _ (by have : i < k := by simpa using hi
                                           omega))

/-- A 9-bit append with room does not flush (R204). -/
theorem checkRoom_of_le {n : Nat} (w : Wait) (k : State → State) {s : State} (h : s.cursor + n ≤ txBits) :
    checkRoom n w k s = k s := by
  rw [checkRoom, if_neg (by omega)]

namespace TwinWalk

variable {mid fin : State → State → Prop} {packs reads : Prop} (W : TwinWalk mid fin packs reads) {s t : State}
include W

/-! What both states hold alike. -/

theorem cursor (h : mid s t) : t.cursor = s.cursor := (congrArg State.cursor (W.same s t h) :)
theorem bus (h : mid s t) : t.bus = s.bus := (congrArg State.bus (W.same s t h) :)
theorem cfg (h : mid s t) : t.cfg = s.cfg := (congrArg State.cfg (W.same s t h) :)
theorem par (h : mid s t) : t.par = s.par := (congrArg State.par (W.same s t h) :)
theorem answers (h : mid s t) : t.answers = s.answers := (congrArg State.answers (W.same s t h) :)
theorem wakes (h : mid s t) : t.wakes = s.wakes := (congrArg State.wakes (W.same s t h) :)
theorem draws (h : mid s t) : t.draws = s.draws := (congrArg State.draws (W.same s t h) :)

/-! Calls and sleeps. -/

theorem busCall {c : BusCall} {w : Wait} {k : Answer → State → State}
    (hk : ∀ a s' t', c.allows a = true → s'.par = s.par → mid s' t' → fin (k a s') (k a t')) (h : mid s t) :
    fin (busCall c w k s) (busCall c w k t) := by
  unfold Machine.busCall
  rw [W.answers h]
  split
  · next a rest _ =>
    split
    · next ha => exact hk a _ _ ha rfl (W.call s t c a rest h)
    · exact W.await s t _ w (.inl rfl) h
  · exact W.await s t _ w (.inl rfl) h

theorem awaitWake {w : Wait} {k : State → State} (hk : ∀ s' t', mid s' t' → fin (k s') (k t')) (h : mid s t) :
    fin (awaitWake w k s) (awaitWake w k t) := by
  unfold Machine.awaitWake
  rw [W.wakes h]
  split
  · exact hk _ _ (W.wake s t _ h)
  · exact W.await s t _ w (.inr rfl) h

theorem sleepThen {ms : Nat} {w : Wait} {k : State → State} (hk : ∀ s' t', mid s' t' → fin (k s') (k t'))
    (h : mid s t) : fin (sleepThen ms w k s) (sleepThen ms w k t) := by
  unfold Machine.sleepThen
  split
  · exact hk _ _ (W.sleep s t 0 h)
  · exact W.awaitWake hk (W.sleep s t ms h)

/-! MIPI and I²C. -/

theorem mipiWrite (c : BusCall) (h : mid s t) : fin (mipiWrite c s) (mipiWrite c t) := by
  refine W.busCall (fun a s' t' _ _ h' => ?_) h
  cases a with
  | error kind => exact W.abort s' t' _ _ h'
  | ok | protocolError => exact W.stop s' t' h'

theorem i2cRewrite (c : BusCall) (h : mid s t) : fin (i2cRewrite c s) (i2cRewrite c t) := by
  refine W.busCall (fun a s' t' _ _ h' => ?_) h
  cases a with
  | error kind => exact W.abort s' t' _ _ h'
  | ok | protocolError => exact W.stop s' t' h'

theorem i2cWrite (c : BusCall) (h : mid s t) : fin (i2cWrite c s) (i2cWrite c t) := by
  refine W.busCall (fun a s' t' _ _ h' => ?_) h
  cases a with
  | error => exact W.sleepThen (fun _ _ => W.i2cRewrite c) h'
  | ok | protocolError => exact W.stop s' t' h'

section Reads

variable (hr : reads)
include hr

theorem compareReply (d : List Byte) (k : Nat) (e : List Byte) (h : mid s t) :
    fin (compareReply d k e s) (compareReply d k e t) :=
  W.compare hr _ _ d k e (W.receive hr s t d h).1

theorem mipiReread (c : BusCall) (k : Nat) (e : List Byte) (h : mid s t) :
    fin (mipiReread c k e s) (mipiReread c k e t) := by
  refine W.busCall (fun a s' t' _ _ h' => ?_) h
  cases a with
  | ok d | protocolError d => exact W.compareReply hr d k e h'
  | error =>
    simp only [W.draws h']
    exact W.compareReply hr _ k e (W.draw s' t' k h')

theorem mipiRead (c : BusCall) (k : Nat) (e : List Byte) (h : mid s t) : fin (mipiRead c k e s) (mipiRead c k e t) := by
  refine W.busCall (fun a s' t' _ _ h' => ?_) h
  cases a with
  | ok d => exact W.compareReply hr d k e h'
  | protocolError => exact W.mipiReread hr c k e h'
  | error kind => exact W.abort s' t' _ _ h'

theorem i2cReread (c : BusCall) (k : Nat) (e : List Byte) (h : mid s t) :
    fin (i2cReread c k e s) (i2cReread c k e t) := by
  refine W.busCall (fun a s' t' _ _ h' => ?_) h
  cases a with
  | ok d => exact W.compareReply hr d k e h'
  | protocolError => exact W.stop s' t' h'
  | error kind => exact W.abort s' t' _ _ h'

theorem i2cRead (c : BusCall) (k : Nat) (e : List Byte) (h : mid s t) : fin (i2cRead c k e s) (i2cRead c k e t) := by
  refine W.busCall (fun a s' t' _ _ h' => ?_) h
  cases a with
  | ok d => exact W.compareReply hr d k e h'
  | protocolError => exact W.stop s' t' h'
  | error => exact W.sleepThen (fun _ _ => W.i2cReread hr c k e) h'

end Reads

/-! SPI. -/

section Packs

variable (hp : packs)
include hp

/-- A flush goes on with nothing pending; if it made a transfer that receives, with the received bytes in RX (R182, R201). -/
theorem flush {wantRx : Bool} {w : Wait} {k : State → State} (hr : wantRx = true → reads)
    (hk : ∀ s' t', mid s' t' → s'.par = s.par → s'.cursor = 0 →
      (wantRx = true → s.cursor ≠ 0 → RxAgree (ceilDiv s.cursor 8) s' t') → fin (k s') (k t'))
    (h : mid s t) : fin (flush wantRx w k s) (flush wantRx w k t) := by
  unfold Machine.flush
  rw [W.cursor h]
  split
  · next h0 => exact hk s t h rfl h0 (fun _ hc => absurd h0 hc)
  · have hpad := W.bits hp s t (List.replicate (8 * ceilDiv s.cursor 8 - s.cursor) true) h
    unfold spiTransfer
    rw [W.sent hp _ _ _ hpad (padded_cursor s).ge, W.cfg hpad]
    refine W.busCall (fun a s' t' ha hpar h' => ?_) hpad
    cases a with
    | error kind => exact W.abort s' t' _ _ h'
    | protocolError => exact W.stop s' t' h'
    | ok d =>
      have hpar : s'.par = s.par := by simpa using hpar
      cases wantRx with
      | false => exact hk _ _ (W.emptied hp s' t' h') hpar rfl (by simp)
      | true =>
        have hd : d.length = ceilDiv s.cursor 8 := by simpa [BusCall.allows] using ha
        obtain ⟨hmid, hrx⟩ := W.receive (hr rfl) s' t' d h'
        exact hk _ _ (W.emptied hp _ _ hmid) hpar rfl (fun _ _ => hd ▸ hrx)

theorem checkRoom {n : Nat} {w : Wait} {k : State → State} (hk : ∀ s' t', mid s' t' → fin (k s') (k t'))
    (h : mid s t) : fin (checkRoom n w k s) (checkRoom n w k t) := by
  unfold Machine.checkRoom
  rw [W.cursor h]
  split
  · refine W.flush hp (by simp) (fun s' t' h' _ _ _ => ?_) h
    unfold afterRoom
    split
    · exact W.abort s' t' _ _ h'
    · exact hk s' t' h'
  · exact hk s t h

theorem storeBytes {p : List Byte} {k : State → State}
    (hk : ∀ s' t', mid s' t' → s'.par = s.par → s'.cursor = s.cursor + 8 * p.length → fin (k s') (k t')) (h : mid s t) :
    fin (storeBytes p k s) (storeBytes p k t) := by
  unfold Machine.storeBytes
  rw [W.cursor h]
  split
  · exact W.abort s t _ _ h
  · split
    · exact W.abort s t _ _ h
    · exact hk _ _ (W.bits hp s t _ h) (by simp) (by rw [putBits_cursor, length_flatMap_bits8])

theorem store9 (p : List Byte) (h : mid s t) : fin (store9 p s) (store9 p t) :=
  W.checkRoom hp (fun _ _ h' => W.stop _ _ (W.bits hp _ _ _ h')) h

theorem byteFlush (h : mid s t) : fin (Machine.flush false .byteWrite id s) (Machine.flush false .byteWrite id t) :=
  W.flush hp (by simp) (fun s' t' h' _ _ _ => W.stop s' t' h') h

theorem spiDeliver (p : List Byte) (h : mid s t) : fin (spiDeliver p s) (spiDeliver p t) := by
  unfold Machine.spiDeliver
  rw [W.cfg h]
  split
  · exact W.store9 hp p h
  · exact W.storeBytes hp (fun _ _ h' _ _ => W.byteFlush hp h') h

theorem delayFlush (ms : Nat) (h : mid s t) : fin (delayFlush ms s) (delayFlush ms t) :=
  W.flush hp (by simp) (fun s' t' h' _ _ _ => W.sleepThen W.stop h') h

variable (hr : reads)
include hr

/-- The transfer of a 9-bit SPI read, its reply inside the bits transferred (R206, R298). -/
theorem readTransfer9 {c : ReadCommand} {k : Nat}
    (hrx : RxEqual mid ∨ 9 * c.bytes.length + s.par.spiReadDummyBits + 8 * k ≤ s.cursor ∧ s.cursor ≠ 0) (e : List Byte)
    (h : mid s t) :
    fin (Machine.flush true (.readTransfer9 c k e) (readReply9 c k e) s)
      (Machine.flush true (.readTransfer9 c k e) (readReply9 c k e) t) := by
  refine W.flush hp (fun _ => hr) (fun s' t' h' hpar _ hagree => ?_) h
  have hex : extract t' k (9 * c.bytes.length + s'.par.spiReadDummyBits)
      = extract s' k (9 * c.bytes.length + s'.par.spiReadDummyBits) := by
    rcases hrx with hrx | ⟨hle, hc⟩
    · simp only [extract, rxBit, hrx s' t' h']
    · refine extract_of_rxAgree (hagree rfl hc) ?_
      rw [hpar]
      simp only [ceilDiv]
      omega
  unfold readReply9
  rw [W.par h', hex]
  exact W.compare hr s' t' _ k e h'

/-- The transfer of a byte-mode SPI read, its reply inside the bytes transferred (R298). -/
theorem readTransfer8 {c : ReadCommand} {k : Nat}
    (hrx : RxEqual mid ∨ 8 * (c.bytes.length + k) ≤ s.cursor ∧ s.cursor ≠ 0) (e : List Byte) (h : mid s t) :
    fin (Machine.flush true (.readTransfer8 c k e) (readReply8 c k e) s)
      (Machine.flush true (.readTransfer8 c k e) (readReply8 c k e) t) := by
  refine W.flush hp (fun _ => hr) (fun s' t' h' hpar _ hagree => ?_) h
  have hex : t'.rx.readBytes c.bytes.length k = s'.rx.readBytes c.bytes.length k := by
    rcases hrx with hrx | ⟨hle, hc⟩
    · rw [hrx s' t' h']
    · refine readBytes_of_rxAgree (hagree rfl hc) ?_
      simp only [ceilDiv]
      omega
  unfold readReply8
  rw [hex]
  exact W.compare hr s' t' _ k e h'

/-- A 9-bit SPI read behind its command: with legal dummy bits it has room (R8, R205). -/
theorem readHigh {c : ReadCommand} {k : Nat} (hrx : RxEqual mid ∨ s.cursor = 9 * c.bytes.length ∧ k ≤ 8) (e : List Byte)
    (h : mid s t) : fin (readHigh c k e s) (readHigh c k e t) := by
  unfold Machine.readHigh
  rw [W.par h]
  by_cases hall : RxEqual mid
  · refine W.checkRoom hp (fun s' t' h' => ?_) h
    rw [W.par h']
    exact W.readTransfer9 hp hr (.inl hall) e (W.bits hp _ _ _ h')
  · obtain ⟨hc, hk⟩ := hrx.resolve_left hall
    have hdummy := W.readable.resolve_left hall s t h
    have hlen : 1 ≤ c.bytes.length ∧ c.bytes.length ≤ 2 := by cases c <;> simp [ReadCommand.bytes]
    have hroom : s.cursor + (s.par.spiReadDummyBits + 8 * k) ≤ txBits := by simp only [txBits]; omega
    rw [checkRoom_of_le _ _ hroom, checkRoom_of_le _ _ (by rwa [W.cursor h]), W.par h]
    refine W.readTransfer9 hp hr (.inr ?_) e (W.bits hp _ _ _ h)
    simp only [putBits_par, putBits_cursor, List.length_replicate]
    omega

theorem readPacked {c : ReadCommand} {k : Nat} (hk : RxEqual mid ∨ k ≤ 8) (hc : s.cursor = 0) (e : List Byte)
    (h : mid s t) : fin (readPacked c k e s) (readPacked c k e t) := by
  have hlen : 1 ≤ c.bytes.length := by cases c <;> simp [ReadCommand.bytes]
  unfold Machine.readPacked
  rw [W.cfg h, W.par h]
  split
  · exact W.readHigh hp hr (hk.imp id (fun hk => ⟨by simp [hc], hk⟩)) e (W.bits hp _ _ _ h)
  · refine W.storeBytes hp (fun s' t' h' _ hcur => W.readTransfer8 hp hr (.inr ?_) e h') h
    simp only [hcur, hc, List.length_append, List.length_replicate]
    omega

theorem spiRead {c : ReadCommand} {k : Nat} (hk : RxEqual mid ∨ k ≤ 8) (e : List Byte) (h : mid s t) :
    fin (spiRead c k e s) (spiRead c k e t) :=
  W.flush hp (by simp) (fun _ _ h' _ hc _ => W.readPacked hp hr hk hc e h') h

end Packs

/-! Instructions. -/

theorem delaySleep (ms : Nat) (h : mid s t) : fin (delaySleep ms s) (delaySleep ms t) := W.sleepThen W.stop h

theorem deliver (hp : s.bus = .spi → packs) (g : Bool) (p : List Byte) (h : mid s t) :
    fin (deliver g p s) (deliver g p t) := by
  unfold Machine.deliver
  rw [W.bus h, W.cfg h]
  split
  · exact W.mipiWrite _ h
  · exact W.i2cWrite _ h
  · next hb => exact W.spiDeliver (hp hb) p h

theorem delay (hp : s.bus = .spi → packs) (ms : Nat) (h : mid s t) :
    fin (if s.bus = .spi then Machine.delayFlush ms s else Machine.delaySleep ms s)
      (if t.bus = .spi then Machine.delayFlush ms t else Machine.delaySleep ms t) := by
  rw [W.bus h]
  split
  · next hb => exact W.delayFlush (hp hb) ms h
  · exact W.delaySleep ms h

theorem mrps (n : Byte) (h : mid s t) :
    fin (if s.bus = .mipi then Machine.mipiWrite (.setMaxReturnPacketSize n) s else s)
      (if t.bus = .mipi then Machine.mipiWrite (.setMaxReturnPacketSize n) t else t) := by
  rw [W.bus h]
  split
  · exact W.mipiWrite _ h
  · exact W.stop s t h

theorem readCompare (hp : s.bus = .spi → packs) (hr : reads) {k : Nat} (hk : RxEqual mid ∨ k ≤ 8) (c : ReadCommand)
    (e : List Byte) (h : mid s t) : fin (readCompare k c e s) (readCompare k c e t) := by
  unfold Machine.readCompare
  rw [W.bus h, W.cfg h]
  split
  · exact W.mipiRead hr _ k e h
  · exact W.i2cRead hr _ k e h
  · next hb => exact W.spiRead (hp hb) hr hk e h

end TwinWalk

end Sys2Proof.Machine

/-! PROOFS. One step of a running or waiting block in two states side by side. -/

namespace Sys2Proof.Machine

/-- Two outcomes with the same fault or refusal, or with next states `fin` relates. -/
inductive TwinOutcome (fin : State → State → Prop) : StepOutcome → StepOutcome → Prop
  | next {s t : State} (h : fin s t) : TwinOutcome fin (.next s) (.next t)
  | fault (f : Fault) : TwinOutcome fin (.fault f) (.fault f)
  | refused (r : Refusal) : TwinOutcome fin (.refused r) (.refused r)

section

variable {fin : State → State → Prop} {s : State} {o : StepOutcome}

theorem TwinOutcome.of_next (h : TwinOutcome fin (.next s) o) : ∃ t, o = .next t ∧ fin s t := by
  cases h with
  | next h => exact ⟨_, rfl, h⟩

theorem TwinOutcome.of_fault {f : Fault} (h : TwinOutcome fin (.fault f) o) : o = .fault f := by
  cases h; rfl

theorem TwinOutcome.of_refused {r : Refusal} (h : TwinOutcome fin (.refused r) o) : o = .refused r := by
  cases h; rfl

end

/-- A walk through two runs of every instruction, of the sequencer around it and of what goes on after a wait. -/
structure TwinStep (mid fin : State → State → Prop) : Prop extends TwinWalk mid fin True True where
  stored : ∀ s t l, mid s t → cmdBytes t l = cmdBytes s l
  filter : ∀ s t k, mid s t → fin (laneSkip k s) (laneSkip k t)
  field : ∀ s t b l, b + l.length ≤ cmdBits → mid s t → fin (setCmdBits b l s) (setCmdBits b l t)
  ended : ∀ s t, mid s t → fin (finish s) (finish t)
  fetch : ∀ s t a n, mid s t → mid { s with stepAt := a, pc := n } { t with stepAt := a, pc := n }
  passOver : ∀ s t, mid s t → fin { s with skip := false } { t with skip := false }
  resumed : ∀ s t, mid s t → mid { s with run := .running, wait := none } { t with run := .running, wait := none }

namespace TwinStep

variable {mid fin : State → State → Prop} (W : TwinStep mid fin) {s t : State}
include W

/-! ### Instructions -/

theorem read {k : Nat} (hk : k ≤ 8) (c : ReadCommand) (e : List Byte) (h : mid s t) :
    fin (readCompare k c e s) (readCompare k c e t) :=
  W.readCompare (fun _ => trivial) trivial (.inr hk) c e h

theorem sendLength (g : Bool) (p : List Byte) (h : mid s t) :
    TwinOutcome fin (sendLength g p s) (sendLength g p t) := by
  unfold Machine.sendLength
  rw [W.bus h, W.par h]
  split
  · exact .fault _
  · split
    · exact .fault _
    · exact .next (W.deliver (fun _ => trivial) g p h)

theorem sendBuf (g : Bool) (l : Byte) (h : mid s t) : TwinOutcome fin (sendBuf g l s) (sendBuf g l t) := by
  unfold Machine.sendBuf
  rw [W.par h, W.stored s t _ h]
  split
  · exact .fault _
  · split
    · exact .fault _
    · exact .next (W.deliver (fun _ => trivial) g _ (W.draw s t _ h))

theorem cmdWrite (ds dl : Byte) (val : Word) (ss : Nat) (h : mid s t) :
    fin (cmdWrite ds dl val ss s) (cmdWrite ds dl val ss t) := by
  unfold Machine.cmdWrite
  rw [W.draws h]
  exact W.field _ _ _ _ (by simpa using fieldLen_le ds dl) (W.draw s t _ h)

theorem substTiming (f : TimingField) (ds dl ss : Byte) (h : mid s t) :
    fin (substTiming f ds dl ss s) (substTiming f ds dl ss t) := by
  unfold Machine.substTiming
  rw [W.cfg h, W.draws h]
  exact W.cmdWrite ds dl _ _ (W.draw s t 1 h)

theorem exec (i : Instr) (h : mid s t) : TwinOutcome fin (exec i s) (exec i t) := by
  cases i with
  | inlineDcs p => exact .next (W.deliver (fun _ => trivial) false p h)
  | inlineGeneric p => exact .next (W.deliver (fun _ => trivial) true p h)
  | dcsLength p | dcsLengthG p => exact W.sendLength _ p h
  | dcsBuf l | dcsBufG l => exact W.sendBuf _ l h
  | delay x ms => exact .next (W.delay (fun _ => trivial) _ h)
  | mrps x n => exact .next (W.mrps n h)
  | dcsRead1 c0 e | dcsRead2 c0 e | dcsRead3 c0 e | dcsRead4 c0 e | dcsRead5 c0 e | dcsRead6 c0 e | dcsRead7 c0 e
  | dcsRead8 c0 e => exact .next (W.read (by decide) (.dcs c0) e h)
  | dcsRead1G c0 c1 e | dcsRead2G c0 c1 e | dcsRead3G c0 c1 e | dcsRead4G c0 c1 e | dcsRead5G c0 c1 e
  | dcsRead6G c0 c1 e | dcsRead7G c0 c1 e | dcsRead8G c0 c1 e =>
    exact .next (W.read (by decide) (.generic c0 c1) e h)
  | if1Lane | if2Lanes | if3Lanes | if4Lanes => exact .next (W.filter s t _ h)
  | constField x ds dl val => exact .next (W.cmdWrite ds dl val 0 h)
  | hsync x ds dl ss | hbp x ds dl ss | hactive x ds dl ss | hfp x ds dl ss | vsync x ds dl ss | vbp x ds dl ss
  | vactive x ds dl ss | vfp x ds dl ss => exact .next (W.substTiming _ ds dl ss h)

/-! ### The sequencer -/

theorem finishFlush (h : mid s t) : fin (flush false .finish finish s) (flush false .finish finish t) :=
  W.flush trivial (by simp) (fun s' t' h' _ _ _ => W.ended s' t' h') h

theorem endProgram (h : mid s t) : fin (endProgram s) (endProgram t) := by
  unfold Machine.endProgram
  rw [W.bus h]
  split
  · exact W.finishFlush h
  · exact W.ended s t h

theorem runStep (i : Instr) (h : mid s t) : TwinOutcome fin (runStep i s) (runStep i t) := by
  have hskip : t.skip = s.skip := (congrArg State.skip (W.same s t h) :)
  unfold Machine.runStep
  rw [hskip]
  split
  · exact W.exec i h
  · split
    · exact .next (W.passOver s t h)
    · exact W.exec i h

theorem sequencerStep (h : mid s t) : TwinOutcome fin (sequencerStep s) (sequencerStep t) := by
  have hpc : t.pc = s.pc := (congrArg State.pc (W.same s t h) :)
  have hprog : t.program = s.program := (congrArg State.program (W.same s t h) :)
  have hfetch : ∀ n, mid { s with stepAt := s.pc, pc := n } { t with par := s.par, stepAt := s.pc, pc := n } :=
    fun n => by simpa only [W.par h] using W.fetch s t s.pc n h
  unfold Machine.sequencerStep pcAtEnd
  rw [hpc, hprog, W.par h]
  split
  · exact .next (W.endProgram (hfetch s.pc))
  · split
    · exact .next (W.abort _ _ _ _ (hfetch _))
    · exact .next (W.abort _ _ _ _ (hfetch _))
    · exact W.runStep _ (hfetch _)

/-- A waiting step goes on alike, when its replies are the same because RX is or because what is outstanding fits (R46, R298). -/
theorem resume {w : Wait} (hw : RxEqual mid ∨ w.fits s) (h : mid s t) :
    fin (resume w { s with run := .running, wait := none }) (resume w { t with run := .running, wait := none }) := by
  have hm := W.resumed s t h
  cases w with
  | mipiWrite c => exact W.mipiWrite c hm
  | mipiRead c k e => exact W.mipiRead trivial c k e hm
  | mipiReread c k e => exact W.mipiReread trivial c k e hm
  | i2cWrite c => exact W.i2cWrite c hm
  | i2cWriteSleep c => exact W.awaitWake (fun _ _ => W.i2cRewrite c) hm
  | i2cRewrite c => exact W.i2cRewrite c hm
  | i2cRead c k e => exact W.i2cRead trivial c k e hm
  | i2cReadSleep c k e => exact W.awaitWake (fun _ _ => W.i2cReread trivial c k e) hm
  | i2cReread c k e => exact W.i2cReread trivial c k e hm
  | byteWrite => exact W.byteFlush trivial hm
  | storeRoom p => exact W.store9 trivial p hm
  | delayFlush ms => exact W.delayFlush trivial ms hm
  | delaySleep => exact W.awaitWake W.stop hm
  | readFlush c k e => exact W.spiRead trivial trivial (hw.imp id And.right) e hm
  | readRoom c k e => exact W.readHigh trivial trivial (hw.imp id False.elim) e hm
  | readTransfer9 c k e =>
    exact W.readTransfer9 trivial trivial (hw.imp id (fun ⟨hin, _, hle⟩ => ⟨hle, hin.2.2.1⟩)) e hm
  | readTransfer8 c k e =>
    exact W.readTransfer8 trivial trivial (hw.imp id (fun ⟨hin, _, hle⟩ => ⟨hle, hin.2.2.1⟩)) e hm
  | finish => exact W.finishFlush hm

theorem resumeStep (hw : RxEqual mid ∨ ∀ w, s.wait = some w → w.fits s) (h : mid s t) :
    TwinOutcome fin (resumeStep s) (resumeStep t) := by
  have hwait : t.wait = s.wait := (congrArg State.wait (W.same s t h) :)
  unfold Machine.resumeStep
  rw [hwait]
  split
  · next w hs => exact .next (W.resume (hw.imp id (fun hw => hw w hs)) h)
  · exact .next (W.stop s t h)

/-- A step of a block that runs or waits, in both states (R46). -/
theorem step (hrun : s.run = .running ∨ s.run = .waitBus ∨ s.run = .waitSleep)
    (hw : RxEqual mid ∨ ∀ w, s.wait = some w → w.fits s) (h : mid s t) : TwinOutcome fin (step s) (step t) := by
  have ht : t.run = s.run := (congrArg State.run (W.same s t h) :)
  unfold Machine.step
  rw [ht]
  rcases hrun with hr | hr | hr <;> rw [hr]
  · exact W.sequencerStep h
  · exact W.resumeStep hw h
  · exact W.resumeStep hw h

end TwinStep

end Sys2Proof.Machine

/-! PROOFS. Scratch contents without a meaning cannot be observed (O48). -/

namespace Sys2Proof.Machine

/-! ### Updates that leave the scratch buffers alone -/

/-- `g` neither reads nor writes TX, RX and CMD, and leaves CURSOR, CMDW and the parameters as they are. -/
def KeepsScratch (g : State → State) : Prop :=
  ∀ s tx rx cmd, g { s with tx := tx, rx := rx, cmd := cmd } = { g s with tx := tx, rx := rx, cmd := cmd } ∧
    (g s).cursor = s.cursor ∧ (g s).cmdw = s.cmdw ∧ (g s).par = s.par

theorem KeepsScratch.eq {g : State → State} (hg : KeepsScratch g) (s : State) :
    g s = { g s with tx := s.tx, rx := s.rx, cmd := s.cmd } := (hg s s.tx s.rx s.cmd).1

theorem KeepsScratch.tx {g : State → State} (hg : KeepsScratch g) (s : State) : (g s).tx = s.tx :=
  (congrArg State.tx (hg.eq s) :)

theorem KeepsScratch.rx {g : State → State} (hg : KeepsScratch g) (s : State) : (g s).rx = s.rx :=
  (congrArg State.rx (hg.eq s) :)

theorem KeepsScratch.cmd {g : State → State} (hg : KeepsScratch g) (s : State) : (g s).cmd = s.cmd :=
  (congrArg State.cmd (hg.eq s) :)

/-- Pending bits depend on TX and CURSOR only (R45). -/
theorem pendingBits_congr {s t : State} (htx : t.tx = s.tx) (hc : t.cursor = s.cursor) : pendingBits t = pendingBits s := by
  rw [pendingBits, pendingBits, htx, hc]

/-- Stored bits depend on CMD only (R44). -/
theorem storedCmdBit_congr {s t : State} (h : t.cmd = s.cmd) (b : Nat) : storedCmdBit t b = storedCmdBit s b := by
  rw [storedCmdBit, storedCmdBit, h]

theorem SameView.refl (s : State) : SameView s s := ⟨rfl, rfl, fun _ _ _ => rfl⟩

section

variable {s t : State}

theorem SameView.cursor (h : SameView s t) : t.cursor = s.cursor := (congrArg State.cursor h.1 :)

theorem SameView.cmdw (h : SameView s t) : t.cmdw = s.cmdw := (congrArg State.cmdw h.1 :)

/-- An update that leaves the scratch buffers alone keeps the view; that it does is mostly true by `rfl`. -/
theorem SameView.keeps (h : SameView s t) (g : State → State)
    (hg : KeepsScratch g := by exact fun _ _ _ _ => ⟨rfl, rfl, rfl, rfl⟩) : SameView (g s) (g t) := by
  have hcomm := (hg s t.tx t.rx t.cmd).1
  have hcmdw := (hg s s.tx s.rx s.cmd).2.2.1
  have hcur : ∀ u, (g u).cursor = u.cursor := fun u => (hg u u.tx u.rx u.cmd).2.1
  obtain ⟨heq, hpend, hmark⟩ := h
  refine ⟨?_, ?_, fun b hb hm => ?_⟩
  · rw [hg.tx t, hg.rx t, hg.cmd t, ← hcomm, ← heq]
  · rw [pendingBits_congr (hg.tx t) (hcur t), pendingBits_congr (hg.tx s) (hcur s), hpend]
  · rw [storedCmdBit_congr (hg.cmd t), storedCmdBit_congr (hg.cmd s)]
    exact hmark b hb (hcmdw ▸ hm)

/-- A bit of TX below CURSOR is the same in both states (R45). -/
theorem SameView.txBit (h : SameView s t) {k : Nat} (hk : k < s.cursor) :
    (t.tx.read (k / 8)).getLsbD (7 - k % 8) = (s.tx.read (k / 8)).getLsbD (7 - k % 8) := by
  have hpend := h.2.1
  rw [pendingBits, pendingBits, h.cursor, List.map_inj_left] at hpend
  exact hpend k (by simpa using hk)

/-- The bytes of TX below CURSOR are the same in both states (R45, R201). -/
theorem SameView.txBytes (h : SameView s t) {n : Nat} (hn : 8 * n ≤ s.cursor) :
    t.tx.readBytes 0 n = s.tx.readBytes 0 n := by
  refine wireBits_inj _ _ ?_
  rw [wireBits_readBytes, wireBits_readBytes]
  exact List.map_congr_left (fun k hk => h.txBit (by have : k < 8 * n := by simpa using hk
                                                     omega))

/-- A bit S_DCS_BUF takes from CMD is a marked one or a free value (R43). -/
theorem SameView.cmdBit (h : SameView s t) (b : Nat) : cmdBit t b = cmdBit s b := by
  have hdraws : t.draws = s.draws := (congrArg State.draws h.1 :)
  unfold Machine.cmdBit
  rw [h.cmdw, hdraws]
  split
  · next hm => exact h.2.2 b (BitVec.lt_of_getLsbD hm) hm
  · rfl

theorem SameView.cmdBytes (h : SameView s t) (l : Nat) : cmdBytes t l = cmdBytes s l := by
  simp only [Machine.cmdBytes, h.cmdBit]

end

/-! ### The walk -/

/-- Two states of the same view with canonical buffers and legal dummy bits: what a run needs to keep the view. -/
structure Alike (s t : State) : Prop where
  view : SameView s t
  txWf : s.tx.wf = true ∧ t.tx.wf = true
  rxWf : s.rx.wf = true ∧ t.rx.wf = true
  cmdWf : s.cmd.wf = true ∧ t.cmd.wf = true
  dummy : s.par.spiReadDummyBits ≤ 430

namespace Alike

variable {s t : State} (h : Alike s t)
include h

theorem keeps (g : State → State) (hg : KeepsScratch g := by exact fun _ _ _ _ => ⟨rfl, rfl, rfl, rfl⟩) :
    Alike (g s) (g t) where
  view := h.view.keeps g hg
  txWf := by rw [hg.tx, hg.tx]; exact h.txWf
  rxWf := by rw [hg.rx, hg.rx]; exact h.rxWf
  cmdWf := by rw [hg.cmd, hg.cmd]; exact h.cmdWf
  dummy := by rw [(hg s s.tx s.rx s.cmd).2.2.2]; exact h.dummy

theorem putBits (l : List Bool) : Alike (putBits l s) (putBits l t) where
  view := by
    refine ⟨?_, ?_, by simpa [storedCmdBit] using h.view.2.2⟩
    · rw [putBits_eq l t, putBits_eq l s, h.view.1]
    · rw [pendingBits_putBits l t h.txWf.2, pendingBits_putBits l s h.txWf.1, h.view.2.1]
  txWf := ⟨wf_tx_putBits l s h.txWf.1, wf_tx_putBits l t h.txWf.2⟩
  rxWf := by simpa using h.rxWf
  cmdWf := by simpa using h.cmdWf
  dummy := by simpa using h.dummy

theorem emptied : Alike { s with cursor := 0 } { t with cursor := 0 } :=
  { h with view := ⟨by rw [h.view.1], rfl, fun b hb hm => h.view.2.2 b hb hm⟩ }

theorem receive (d : List Byte) :
    Alike { s with rx := s.rx.writeBytes 0 d } { t with rx := t.rx.writeBytes 0 d } :=
  { h with
    view := ⟨by rw [h.view.1], h.view.2.1, h.view.2.2⟩
    rxWf := ⟨Memory.wf_writeBytes _ _ _ h.rxWf.1, Memory.wf_writeBytes _ _ _ h.rxWf.2⟩ }

/-- Both buffers hold the bytes received (R41). -/
theorem received (d : List Byte) :
    RxAgree d.length { s with rx := s.rx.writeBytes 0 d } { t with rx := t.rx.writeBytes 0 d } := by
  intro a ha
  simp only [Memory.read_writeBytes _ _ _ _ h.rxWf.1, Memory.read_writeBytes _ _ _ _ h.rxWf.2]
  rw [if_pos (by omega), if_pos (by omega)]

/-- A field written in both states is stored and marked in both (R324). -/
theorem setCmdBits {b : Nat} {l : List Bool} (hb : b + l.length ≤ cmdBits) :
    SameView (setCmdBits b l s) (setCmdBits b l t) := by
  have hcmdw : (Machine.setCmdBits b l t).cmdw = (Machine.setCmdBits b l s).cmdw :=
    BitVec.eq_of_getLsbD_eq (fun k _ => by
      rw [getLsbD_cmdw_setCmdBits b l t hb, getLsbD_cmdw_setCmdBits b l s hb, h.view.cmdw])
  refine ⟨?_, ?_, fun k hk hm => ?_⟩
  · rw [setCmdBits_eq b l t, setCmdBits_eq b l s, hcmdw, h.view.1]
  · rw [pendingBits_congr (setCmdBits_tx b l t) (setCmdBits_cursor b l t),
      pendingBits_congr (setCmdBits_tx b l s) (setCmdBits_cursor b l s), h.view.2.1]
  · rw [storedCmdBit_setCmdBits b l t h.cmdWf.2, storedCmdBit_setCmdBits b l s h.cmdWf.1]
    split
    · rfl
    · next hout =>
      rw [getLsbD_cmdw_setCmdBits b l s hb] at hm
      exact h.view.2.2 k hk (by simpa [hout] using hm)

end Alike

/-- Two runs from states of the same view keep the view. -/
theorem twinStep_alike : TwinStep Alike SameView where
  same s t h := by
    have hresult : t.result = s.result := (congrArg State.result h.view.1 :)
    rw [hresult]
    exact h.view.1
  readable := .inr (fun _ _ h => h.dummy)
  stop _ _ h := h.view
  await _ _ r w _ h := h.view.keeps (State.await · r w)
  abort _ _ code cause h := h.view.keeps (State.abort · code cause)
  call _ _ c a rest h := h.keeps (fun u => { u with answers := rest, trace := u.trace ++ [.bus c a] })
  sleep _ _ ms h := h.keeps (State.emit · (.sleep ms))
  wake _ _ n h := h.keeps (fun u => { u with wakes := n })
  draw _ _ n h := h.keeps (State.drew · n)
  bits _ _ _ l h := h.putBits l
  sent _ _ _ _ h hn := h.view.txBytes hn
  emptied _ _ _ h := h.emptied
  receive _ _ _ d h := ⟨h.receive d, h.received d⟩
  compare _ _ _ d k e h := h.view.keeps (recordMatch d k e)
  stored _ _ l h := h.view.cmdBytes l
  filter _ _ k h := h.view.keeps (laneSkip k)
  field _ _ _ _ hb h := h.setCmdBits hb
  ended _ _ h := h.view.keeps finish
  fetch _ _ a n h := h.keeps (fun u => { u with stepAt := a, pc := n })
  passOver _ _ h := h.view.keeps (fun u => { u with skip := false })
  resumed _ _ h := h.keeps (fun u => { u with run := .running, wait := none })

/-! ### The dispatcher and the host -/

namespace SameView

variable {s t : State} (h : SameView s t)
include h

/-- A program entry leaves nothing pending and no mark (R411). -/
theorem programEntry (name : ProgName) (b : Bus) : SameView (s.programEntry name b) (t.programEntry name b) :=
  ⟨by rw [h.1]; rfl, rfl, fun _ _ hm => by simp at hm⟩

theorem afterTriple (c : Caller) (r : Result) : SameView (afterTriple c r s) (afterTriple c r t) :=
  h.keeps (Machine.afterTriple c r) (fun _ _ _ _ => by cases c <;> cases r <;> exact ⟨rfl, rfl, rfl, rfl⟩)

theorem tripleReturn (c : Caller) (r : Result) : SameView (tripleReturn c r s) (tripleReturn c r t) :=
  (h.keeps (fun u => { u with triple := none, reply := some r })).afterTriple c r

theorem advanceTriple (tr : Triple) : SameView (advanceTriple tr s) (advanceTriple tr t) := by
  have hcfg : t.cfg = s.cfg := (congrArg State.cfg h.1 :)
  unfold Machine.advanceTriple
  rw [hcfg]
  split
  · next b r _ =>
    exact (h.keeps (fun u => { u with cfg := s.cfg, triple := some { tr with rest := r } })).programEntry tr.name b
  · exact h.tripleReturn _ _

theorem startTriple (c : Caller) (name : ProgName) : SameView (startTriple c name s) (startTriple c name t) :=
  h.advanceTriple _

theorem streamEnded (tr : Triple) : SameView (streamEnded tr s) (streamEnded tr t) := by
  have hresult : t.result = s.result := (congrArg State.result h.1 :)
  have hpar : t.par = s.par := (congrArg State.par h.1 :)
  unfold Machine.streamEnded
  rw [hresult, hpar]
  split
  · exact h.advanceTriple _
  · split
    · exact h.tripleReturn _ _
    · exact h.advanceTriple _
  · exact h.tripleReturn _ _
  · exact h.advanceTriple _

theorem act (l : List HostAct) : SameView (s.act l) (t.act l) :=
  h.keeps (State.act · l)

theorem transition (tr : Transition) : SameView (transition tr s) (transition tr t) := by
  have hcfg : t.cfg = s.cfg := (congrArg State.cfg h.1 :)
  have hprepared : t.prepared = s.prepared := (congrArg State.prepared h.1 :)
  have henabled : t.enabled = s.enabled := (congrArg State.enabled h.1 :)
  cases tr with
  | powerUp | powerDown => rw [Machine.transition, Machine.transition, hcfg]; exact h.act _
  | prepare =>
    rw [Machine.transition, Machine.transition, hcfg, hprepared]
    split
    · exact h
    · exact (h.act _).startTriple _ _
  | enable =>
    rw [Machine.transition, Machine.transition, henabled]
    split
    · exact h
    · exact h.startTriple _ _
  | disable =>
    rw [Machine.transition, Machine.transition, hcfg, henabled]
    split
    · exact (h.act _).startTriple _ _
    · exact h
  | unprepare =>
    rw [Machine.transition, Machine.transition, hprepared]
    split
    · exact h.keeps (fun u => State.act { u with prepared := false }
        [.wait u.cfg.delays.unprepare, .assertReset, .deassertPrepareEnable, .disableRegulator])
    · exact h

theorem recreate (c : Cfg) (p : Params) : recreate c p t = recreate c p s := by rw [h.1]; rfl

theorem serve (q : Request) : TwinOutcome SameView (serve q s) (serve q t) := by
  have hbound : t.bound = s.bound := (congrArg State.bound h.1 :)
  have hpar : t.par = s.par := (congrArg State.par h.1 :)
  cases q with
  | bind c p a =>
    rw [Machine.serve, Machine.serve, hbound, h.recreate]
    split
    · exact .refused _
    · split
      · split
        · exact .next (.refl _)
        · exact .next (h.keeps (fun u => { u with bound := s.bound, reply := some .edefer }))
      · exact .refused _
  | unbind =>
    rw [Machine.serve, Machine.serve, hbound, hpar, h.recreate]
    split
    · exact .next (.refl _)
    · exact .refused _
  | runTriple name =>
    rw [Machine.serve, Machine.serve, hbound]
    split
    · exact .next (h.startTriple _ _)
    · exact .refused _
  | transition tr =>
    rw [Machine.serve, Machine.serve, hbound]
    split
    · exact .next (h.transition tr)
    · exact .refused _

theorem dispatcherStep : TwinOutcome SameView (dispatcherStep s) (dispatcherStep t) := by
  have htriple : t.triple = s.triple := (congrArg State.triple h.1 :)
  have hrequests : t.requests = s.requests := (congrArg State.requests h.1 :)
  unfold Machine.dispatcherStep
  rw [htriple, hrequests]
  split
  · exact .next (h.streamEnded _)
  · split
    · next rest _ =>
      exact (h.keeps (fun u => { u with triple := s.triple, requests := rest })).serve _
    · exact .next h

/-- One step of the machine keeps the view, by RUN (R46). -/
theorem step (hs : s.Inv) (ht : t.Inv) : TwinOutcome SameView (step s) (step t) := by
  have hrun : t.run = s.run := (congrArg State.run h.1 :)
  have hdummy : s.par.spiReadDummyBits ≤ 430 := by
    have hl := hs.legal
    simp only [configLegal, paramsLegal, Bool.and_eq_true, decide_eq_true_eq] at hl
    omega
  have halike : Alike s t := ⟨h, ⟨hs.txWf, ht.txWf⟩, ⟨hs.rxWf, ht.rxWf⟩, ⟨hs.cmdWf, ht.cmdWf⟩, hdummy⟩
  cases hr : s.run with
  | running | waitBus | waitSleep => exact twinStep_alike.step (by simp [hr]) (.inr hs.waitFits) halike
  | idle | done | aborted =>
    rw [step_of_notRunning (by simp [hr]), step_of_notRunning (by simp [hrun, hr])]
    exact h.dispatcherStep

end SameView

/-- Settles O48: two runs side by side, through the instruction for the first part, through the machine's step for the
second. -/
theorem unobservableScratchIsUnobservable : Obligations.UnobservableScratchIsUnobservable := by
  refine ⟨fun s t i _ hstx httx hsrx htrx hscmd htcmd _ hdummy hview => ?_, fun s t hs ht hview => ?_⟩
  · have hout := twinStep_alike.exec i ⟨hview, ⟨hstx, httx⟩, ⟨hsrx, htrx⟩, ⟨hscmd, htcmd⟩, hdummy⟩
    exact ⟨fun _ he => (he ▸ hout).of_next, fun _ he => (he ▸ hout).of_fault⟩
  · have hout := hview.step hs ht
    exact ⟨fun _ he => (he ▸ hout).of_next, fun _ he => (he ▸ hout).of_fault, fun _ he => (he ▸ hout).of_refused⟩

end Sys2Proof.Machine

/-! PROOFS. RESULT is per program (O51), which state an instruction writes (O46), and CFG is fixed (O57): three more walks
through two runs, the last two of a run beside itself. -/

namespace Sys2Proof.Machine

/-! ### An earlier RESULT is not read -/

/-- Bits put one after another do not read RESULT. -/
theorem putBits_withResult (l : List Bool) (s : State) (r : Option Result) :
    putBits l { s with result := r } = { putBits l s with result := r } := by
  induction l generalizing s with
  | nil => rfl
  | cons x l ih => exact ih (putBit x s)

/-- Writes of CMD bits do not read RESULT. -/
theorem setCmdBits_withResult (b : Nat) (l : List Bool) (s : State) (r : Option Result) :
    setCmdBits b l { s with result := r } = { setCmdBits b l s with result := r } := by
  induction l generalizing b s with
  | nil => rfl
  | cons x l ih => exact ih (b + 1) (setCmdBit b x s)

/-- Inside a program: RESULT is still the earlier one, `r0`, and in the other run it is `r`. -/
def EarlierResult (r0 r : Option Result) (s t : State) : Prop :=
  (s.run = .running ∨ s.run = .waitBus ∨ s.run = .waitSleep) ∧ s.result = r0 ∧ t = { s with result := r }

/-- After a step of a program: both runs have ended in one state with a RESULT, or RESULT is still the earlier one. -/
def ResultOverwritten (r0 r : Option Result) (s t : State) : Prop :=
  ((s.run = .done ∨ s.run = .aborted) → s.result ≠ none ∧ t = s) ∧
    (s.run ≠ .done → s.run ≠ .aborted → s.result = r0 ∧ t = { s with result := r })

section

variable {r0 r : Option Result} {s t : State}

theorem EarlierResult.notEnded (h : EarlierResult r0 r s t) : ResultOverwritten r0 r s t := by
  obtain ⟨hrun, hres⟩ := h
  refine ⟨fun hend => ?_, fun _ _ => hres⟩
  rcases hrun with hr | hr | hr <;> simp [hr] at hend

/-- A step that writes RESULT writes it over any earlier one. -/
theorem ResultOverwritten.ended (hrun : s.run = .done ∨ s.run = .aborted) (hres : s.result ≠ none) (ht : t = s) :
    ResultOverwritten r0 r s t :=
  ⟨fun _ => ⟨hres, ht⟩, fun hd ha => (hrun.elim hd ha).elim⟩

end

theorem rxEqual_earlierResult (r0 r : Option Result) : RxEqual (EarlierResult r0 r) := by
  rintro s _ ⟨-, -, rfl⟩; rfl

/-- Two runs that differ in an earlier RESULT differ only so until RESULT is overwritten. -/
theorem twinStep_earlierResult (r0 r : Option Result) : TwinStep (EarlierResult r0 r) (ResultOverwritten r0 r) where
  same := by rintro s _ ⟨-, -, rfl⟩; rfl
  readable := .inl (rxEqual_earlierResult r0 r)
  stop _ _ h := h.notEnded
  await := by
    rintro s _ _ w hr ⟨-, hres, rfl⟩
    exact EarlierResult.notEnded ⟨.inr hr, hres, rfl⟩
  abort := by
    rintro s _ code cause ⟨-, -, rfl⟩
    exact .ended (.inr rfl) (by simp) rfl
  call := by rintro s _ c a rest ⟨hrun, hres, rfl⟩; exact ⟨hrun, hres, rfl⟩
  sleep := by rintro s _ ms ⟨hrun, hres, rfl⟩; exact ⟨hrun, hres, rfl⟩
  wake := by rintro s _ n ⟨hrun, hres, rfl⟩; exact ⟨hrun, hres, rfl⟩
  draw := by rintro s _ n ⟨hrun, hres, rfl⟩; exact ⟨hrun, hres, rfl⟩
  bits := by
    rintro - s _ l ⟨hrun, hres, rfl⟩
    exact ⟨by simpa using hrun, by simpa using hres, putBits_withResult l s r⟩
  sent := by rintro - s _ n ⟨-, -, rfl⟩ _; rfl
  emptied := by rintro - s _ ⟨hrun, hres, rfl⟩; exact ⟨hrun, hres, rfl⟩
  receive := by rintro - s _ d ⟨hrun, hres, rfl⟩; exact ⟨⟨hrun, hres, rfl⟩, fun _ _ => rfl⟩
  compare := by
    rintro - s _ d k e ⟨hrun, hres, rfl⟩
    exact EarlierResult.notEnded ⟨hrun, hres, rfl⟩
  stored := by rintro s _ l ⟨-, -, rfl⟩; rfl
  filter := by
    rintro s _ k ⟨hrun, hres, rfl⟩
    exact EarlierResult.notEnded ⟨hrun, hres, rfl⟩
  field := by
    rintro s _ b l - ⟨hrun, hres, rfl⟩
    exact EarlierResult.notEnded ⟨by simpa using hrun, by simpa using hres, setCmdBits_withResult b l s r⟩
  ended := by
    rintro s _ ⟨-, -, rfl⟩
    exact .ended (.inl rfl) (by simp) rfl
  fetch := by rintro s _ a n ⟨hrun, hres, rfl⟩; exact ⟨hrun, hres, rfl⟩
  passOver := by
    rintro s _ ⟨hrun, hres, rfl⟩
    exact EarlierResult.notEnded ⟨hrun, hres, rfl⟩
  resumed := by rintro s _ ⟨-, hres, rfl⟩; exact ⟨.inl rfl, hres, rfl⟩

/-- Settles O51: two runs of the step, one with another earlier RESULT. -/
theorem earlierResultIsNotRead : Obligations.EarlierResultIsNotRead := by
  intro s r hrun
  have hout := (twinStep_earlierResult s.result r).step (t := { s with result := r }) hrun
    (.inl (rxEqual_earlierResult _ _)) ⟨hrun, rfl, rfl⟩
  refine ⟨fun t he => ?_, fun f he => (he ▸ hout).of_fault⟩
  obtain ⟨t', he', hend, hgoes⟩ := (he ▸ hout).of_next
  refine ⟨fun hrt => ?_, fun hd ha => ?_⟩
  · obtain ⟨hres, rfl⟩ := hend hrt
    exact ⟨hres, he'⟩
  · obtain ⟨hres, rfl⟩ := hgoes hd ha
    exact ⟨hres, he'⟩

/-! ### Which state an instruction writes -/

/-- What any instruction leaves as it was: PC, BUS, CFG, the parameters, the program and the host's state. -/
def KeepsSurroundings (s t : State) : Prop :=
  t.pc = s.pc ∧ t.bus = s.bus ∧ t.cfg = s.cfg ∧ t.par = s.par ∧ t.prog = s.prog ∧ t.prepared = s.prepared ∧
    t.enabled = s.enabled ∧ t.triple = s.triple ∧ t.reply = s.reply ∧ t.hostLog = s.hostLog ∧
    t.requests = s.requests ∧ t.bound = s.bound

/-- What a step that is no lane filter and no substitution leaves: `reads` says whether it may write RX and MATCH. -/
structure Leaves (s : State) (reads : Prop) (t : State) : Prop where
  surroundings : KeepsSurroundings s t
  skip : t.skip = s.skip
  cmd : t.cmd = s.cmd ∧ t.cmdw = s.cmdw
  matchSt : t.matchSt = s.matchSt ∨ (t.matchSt = .mismatch ∧ reads)
  tx : s.bus ≠ .spi → t.tx = s.tx ∧ t.cursor = s.cursor
  rx : t.rx = s.rx ∨ reads

theorem Leaves.refl (s : State) (reads : Prop) : Leaves s reads s :=
  ⟨⟨rfl, rfl, rfl, rfl, rfl, rfl, rfl, rfl, rfl, rfl, rfl, rfl⟩, rfl, ⟨rfl, rfl⟩, .inl rfl, fun _ => ⟨rfl, rfl⟩, .inl rfl⟩

/-- A run beside itself: what it leaves is kept by every small update, TX written on SPI only. -/
theorem twinWalk_leaves (s : State) (reads : Prop) :
    TwinWalk (fun a b => b = a ∧ Leaves s reads a) (fun a _ => Leaves s reads a) (s.bus = .spi) reads where
  same := by rintro a _ ⟨rfl, -⟩; rfl
  readable := .inl (by rintro a _ ⟨rfl, -⟩; rfl)
  stop _ _ h := h.2
  await _ _ _ _ _ h := { h.2 with }
  abort _ _ _ _ h := { h.2 with }
  call := by rintro a _ c r rest ⟨rfl, h⟩; exact ⟨rfl, { h with }⟩
  sleep := by rintro a _ ms ⟨rfl, h⟩; exact ⟨rfl, { h with }⟩
  wake := by rintro a _ n ⟨rfl, h⟩; exact ⟨rfl, { h with }⟩
  draw := by rintro a _ n ⟨rfl, h⟩; exact ⟨rfl, { h with }⟩
  bits := by
    rintro hspi a _ l ⟨rfl, h⟩
    rw [putBits_eq]
    exact ⟨rfl, { h with tx := fun hn => absurd hspi hn }⟩
  sent := by rintro - a _ n ⟨rfl, -⟩ _; rfl
  emptied := by rintro hspi a _ ⟨rfl, h⟩; exact ⟨rfl, { h with tx := fun hn => absurd hspi hn }⟩
  receive := by rintro hr a _ d ⟨rfl, h⟩; exact ⟨⟨rfl, { h with rx := .inr hr }⟩, fun _ _ => rfl⟩
  compare := by
    rintro hr a _ d k e ⟨rfl, h⟩
    refine { h with matchSt := ?_ }
    rw [recordMatch_matchSt]
    split
    · exact h.matchSt
    · exact .inr ⟨rfl, hr⟩

/-- What an instruction writes, by its kind. -/
def WritesItsOwn (s t : State) (i : Instr) : Prop :=
  KeepsSurroundings s t ∧
    (t.skip = s.skip ∨ (t.skip = true ∧ ∃ k, Filters i k)) ∧
    (t.matchSt = s.matchSt ∨ (t.matchSt = .mismatch ∧ ∃ k c e, Reads i k c e)) ∧
    ((t.cmd = s.cmd ∧ t.cmdw = s.cmdw) ∨ (∃ x ds dl v, i = .constField x ds dl v) ∨
      (∃ ds dl ss hi lo, TimingStep s.cfg.timing i ds dl ss hi lo)) ∧
    (s.bus ≠ .spi → t.tx = s.tx ∧ t.cursor = s.cursor) ∧
    (t.rx = s.rx ∨ ∃ k c e, Reads i k c e)

section

variable {s t : State} {i : Instr}

theorem Leaves.writesItsOwn (h : Leaves s (∃ k c e, Reads i k c e) t) : WritesItsOwn s t i :=
  ⟨h.surroundings, .inl h.skip, h.matchSt, .inl h.cmd, h.tx, h.rx⟩

theorem writesItsOwn_of_deliver (g : Bool) (p : List Byte) (n : Nat) : WritesItsOwn s (deliver g p (s.drew n)) i := by
  have hdrew : Leaves s (∃ k c e, Reads i k c e) (s.drew n) := { Leaves.refl s _ with }
  exact Leaves.writesItsOwn ((twinWalk_leaves s _).deliver (s := s.drew n) id g p ⟨rfl, hdrew⟩)

theorem writesItsOwn_of_sendLength {g : Bool} {p : List Byte} (h : sendLength g p s = .next t) : WritesItsOwn s t i := by
  unfold sendLength at h
  split at h
  · cases h
  · split at h
    · cases h
    · cases h
      exact writesItsOwn_of_deliver g p 0

theorem writesItsOwn_of_sendBuf {g : Bool} {l : Byte} (h : sendBuf g l s = .next t) : WritesItsOwn s t i := by
  unfold sendBuf at h
  split at h
  · cases h
  · split at h
    · cases h
    · cases h
      exact writesItsOwn_of_deliver g _ _

theorem length_of_expectOk {k : Nat} {e : List Byte} (h : Instr.expectOk k e = true) : e.length = k := by
  simpa [Instr.expectOk] using h

theorem writesItsOwn_of_reads {k : Nat} {c : ReadCommand} {e : List Byte} (h : Reads i k c e) (he : exec i s = .next t) :
    WritesItsOwn s t i := by
  rw [exec_of_reads h] at he
  cases he
  exact Leaves.writesItsOwn ((twinWalk_leaves s _).readCompare (t := s) id ⟨k, c, e, h⟩
    (.inr (reads_bounds h).2.2) c e ⟨rfl, .refl s _⟩)

theorem writesItsOwn_of_filters {k : Nat} (h : Filters i k) (he : exec i s = .next t) : WritesItsOwn s t i := by
  rw [exec_of_filters h] at he
  cases he
  refine ⟨(Leaves.refl s True).surroundings, ?_, .inl rfl, .inl ⟨rfl, rfl⟩, fun _ => ⟨rfl, rfl⟩, .inl rfl⟩
  rw [laneSkip_skip]
  split
  · exact .inl rfl
  · exact .inr ⟨rfl, k, h⟩

theorem writesItsOwn_of_cmdWrite {ds dl : Byte} {val : Word} {ss n : Nat}
    (h : (∃ x ds dl v, i = .constField x ds dl v) ∨ (∃ ds dl ss hi lo, TimingStep s.cfg.timing i ds dl ss hi lo)) :
    WritesItsOwn s (cmdWrite ds dl val ss (s.drew n)) i := by
  unfold cmdWrite
  rw [setCmdBits_eq]
  exact ⟨(Leaves.refl s True).surroundings, .inl rfl, .inl rfl, .inr h, fun _ => ⟨rfl, rfl⟩, .inl rfl⟩

theorem writesItsOwn_of_timing {ds dl ss : Byte} {hi lo : Word} (h : TimingStep s.cfg.timing i ds dl ss hi lo)
    (he : exec i s = .next t) : WritesItsOwn s t i := by
  rw [exec_of_timing h] at he
  cases he
  exact writesItsOwn_of_cmdWrite (.inr ⟨_, _, _, _, _, h⟩)

end

/-- Settles O46: by the kind of the instruction. -/
theorem instructionsKeepWhatIsNotTheirs : Obligations.InstructionsKeepWhatIsNotTheirs := by
  intro s t i hwf he
  show WritesItsOwn s t i
  cases i with
  | inlineDcs p => cases he; exact writesItsOwn_of_deliver false p 0
  | inlineGeneric p => cases he; exact writesItsOwn_of_deliver true p 0
  | dcsLength p | dcsLengthG p => exact writesItsOwn_of_sendLength he
  | dcsBuf l | dcsBufG l => exact writesItsOwn_of_sendBuf he
  | delay x ms =>
    cases he
    exact Leaves.writesItsOwn ((twinWalk_leaves s _).delay (t := s) id _ ⟨rfl, .refl s _⟩)
  | mrps x n =>
    cases he
    exact Leaves.writesItsOwn ((twinWalk_leaves s _).mrps (t := s) n ⟨rfl, .refl s _⟩)
  | dcsRead1 | dcsRead2 | dcsRead3 | dcsRead4 | dcsRead5 | dcsRead6 | dcsRead7 | dcsRead8 | dcsRead1G | dcsRead2G
  | dcsRead3G | dcsRead4G | dcsRead5G | dcsRead6G | dcsRead7G | dcsRead8G =>
    exact writesItsOwn_of_reads (by constructor; exact length_of_expectOk hwf) he
  | if1Lane | if2Lanes | if3Lanes | if4Lanes => exact writesItsOwn_of_filters (by constructor) he
  | constField x ds dl v => cases he; exact writesItsOwn_of_cmdWrite (n := 0) (.inl ⟨x, ds, dl, v, rfl⟩)
  | hsync | hbp | hactive | hfp | vsync | vbp | vactive | vfp => exact writesItsOwn_of_timing (by constructor) he

/-! ### CFG is fixed -/

/-- CFG and the parameters are the same in both states. -/
def SameConfig (s t : State) : Prop := t.cfg = s.cfg ∧ t.par = s.par

/-- A run beside itself: no update inside a program writes CFG or the parameters. -/
theorem twinStep_sameConfig (s : State) : TwinStep (fun a b => b = a ∧ SameConfig s a) (fun a _ => SameConfig s a) where
  same := by rintro a _ ⟨rfl, -⟩; rfl
  readable := .inl (by rintro a _ ⟨rfl, -⟩; rfl)
  stop _ _ h := h.2
  await _ _ _ _ _ h := h.2
  abort _ _ _ _ h := h.2
  call := by rintro a _ c r rest ⟨rfl, h⟩; exact ⟨rfl, h⟩
  sleep := by rintro a _ ms ⟨rfl, h⟩; exact ⟨rfl, h⟩
  wake := by rintro a _ n ⟨rfl, h⟩; exact ⟨rfl, h⟩
  draw := by rintro a _ n ⟨rfl, h⟩; exact ⟨rfl, h⟩
  bits := by rintro - a _ l ⟨rfl, h⟩; exact ⟨rfl, by simpa [SameConfig] using h⟩
  sent := by rintro - a _ n ⟨rfl, -⟩ _; rfl
  emptied := by rintro - a _ ⟨rfl, h⟩; exact ⟨rfl, h⟩
  receive := by rintro - a _ d ⟨rfl, h⟩; exact ⟨⟨rfl, h⟩, fun _ _ => rfl⟩
  compare _ _ _ _ _ _ h := h.2
  stored := by rintro a _ l ⟨rfl, -⟩; rfl
  filter _ _ _ h := h.2
  field _ _ _ _ _ h := by simpa [SameConfig] using h.2
  ended _ _ h := h.2
  fetch := by rintro a _ m n ⟨rfl, h⟩; exact ⟨rfl, h⟩
  passOver _ _ h := h.2
  resumed := by rintro a _ ⟨rfl, h⟩; exact ⟨rfl, h⟩

namespace SameConfig

variable {s t : State} (h : SameConfig s t)
include h

theorem afterTriple (c : Caller) (r : Result) : SameConfig s (afterTriple c r t) := by
  cases c <;> cases r <;> exact h

theorem advanceTriple (tr : Triple) : SameConfig s (advanceTriple tr t) := by
  unfold Machine.advanceTriple
  split
  · exact h
  · exact afterTriple (t := { t with triple := none, reply := _ }) h _ _

theorem streamEnded (tr : Triple) : SameConfig s (streamEnded tr t) := by
  have hreturn : ∀ r, SameConfig s (tripleReturn tr.caller r t) :=
    fun r => afterTriple (t := { t with triple := none, reply := some r }) h _ _
  unfold Machine.streamEnded
  split
  · exact h.advanceTriple _
  · split
    · exact hreturn _
    · exact h.advanceTriple _
  · exact hreturn _
  · exact h.advanceTriple _

theorem transition (tr : Transition) : SameConfig s (transition tr t) := by
  have hact : ∀ l, SameConfig s (t.act l) := fun _ => h
  cases tr with
  | powerUp | powerDown => exact h
  | prepare =>
    rw [Machine.transition]
    split
    · exact h
    · exact (hact _).advanceTriple _
  | enable =>
    rw [Machine.transition]
    split
    · exact h
    · exact h.advanceTriple _
  | disable =>
    rw [Machine.transition]
    split
    · exact (hact _).advanceTriple _
    · exact h
  | unprepare =>
    rw [Machine.transition]
    split
    · exact h
    · exact h

end SameConfig

/-- Of the host's requests only a bind or an unbind writes CFG or the parameters, a bind those it brings (R362, R412). -/
theorem serve_config {q : Request} {s t : State} (hs : serve q s = .next t) :
    SameConfig s t ∨ q = .unbind ∨ ∃ c p a, q = .bind c p a ∧ t.cfg = c ∧ t.par = p := by
  have hrefl : SameConfig s s := ⟨rfl, rfl⟩
  cases q with
  | unbind => exact .inr (.inl rfl)
  | bind c p a =>
    rw [serve] at hs
    split at hs
    · cases hs
    · split at hs
      · split at hs
        · cases hs; exact .inr (.inr ⟨c, p, a, rfl, rfl, rfl⟩)
        · cases hs; exact .inl hrefl
      · cases hs
  | runTriple name =>
    rw [serve] at hs
    split at hs
    · cases hs; exact .inl (hrefl.advanceTriple _)
    · cases hs
  | transition tr =>
    rw [serve] at hs
    split at hs
    · cases hs; exact .inl (hrefl.transition tr)
    · cases hs

theorem dispatcherStep_config {s t : State} (hs : dispatcherStep s = .next t) :
    SameConfig s t ∨ s.triple = none ∧ ∃ qs, s.requests = .unbind :: qs ∨
      ∃ c p a, s.requests = .bind c p a :: qs ∧ t.cfg = c ∧ t.par = p := by
  have hrefl : SameConfig s s := ⟨rfl, rfl⟩
  unfold dispatcherStep at hs
  split at hs
  · cases hs; exact .inl (hrefl.streamEnded _)
  · next htriple =>
    split at hs
    · next q qs hq =>
      rcases serve_config hs with h | rfl | ⟨c, p, a, rfl, hc, hp⟩
      · exact .inl h
      · exact .inr ⟨htriple, qs, .inl hq⟩
      · exact .inr ⟨htriple, qs, .inr ⟨c, p, a, hq, hc, hp⟩⟩
    · cases hs; exact .inl hrefl

/-- Settles O57: a step of a program by the walk, a step of the dispatcher by its request. -/
theorem configurationIsFixed : Obligations.ConfigurationIsFixed := by
  intro s t hs
  cases hr : s.run with
  | running | waitBus | waitSleep =>
    have hout := (twinStep_sameConfig s).step (t := s) (by simp [hr]) (.inl (by rintro a _ ⟨rfl, -⟩; rfl)) ⟨rfl, rfl, rfl⟩
    obtain ⟨_, -, hcfg⟩ := (hs ▸ hout).of_next
    exact .inl hcfg
  | idle | done | aborted =>
    rw [step_of_notRunning (by simp [hr])] at hs
    rcases dispatcherStep_config hs with h | ⟨htriple, qs, hq⟩
    · exact .inl h
    · exact .inr ⟨qs, by simp, htriple, hq⟩

end Sys2Proof.Machine

/-! PROOFS. What a data step, a read and a delay come to on each interface, and where they wait when a call, a sleep or a
transfer is not answered (O15, O16, O17, O31). -/

namespace Sys2Proof.Machine

/-! ### Operations on the bus they are on -/

section

variable {s : State}

theorem deliver_mipi (hb : s.bus = .mipi) (g : Bool) (p : List Byte) :
    deliver g p s = mipiWrite (if g then .genericWrite p else .dcsWrite p) s := by
  rw [deliver, hb]

theorem deliver_i2c (hb : s.bus = .i2c) (g : Bool) (p : List Byte) :
    deliver g p s = i2cWrite (.i2cWrite s.cfg.i2cAddr (swap p)) s := by
  rw [deliver, hb]

theorem deliver_spi (hb : s.bus = .spi) (g : Bool) (p : List Byte) : deliver g p s = spiDeliver p s := by
  rw [deliver, hb]

theorem readCompare_mipi (hb : s.bus = .mipi) (k : Nat) (c : ReadCommand) (e : List Byte) :
    readCompare k c e s = mipiRead (mipiReadCall k c) k e s := by
  rw [readCompare, hb]

theorem readCompare_i2c (hb : s.bus = .i2c) (k : Nat) (c : ReadCommand) (e : List Byte) :
    readCompare k c e s = i2cRead (.i2cWriteRead s.cfg.i2cAddr (swap c.bytes) k) k e s := by
  rw [readCompare, hb]

theorem readCompare_spi (hb : s.bus = .spi) (k : Nat) (c : ReadCommand) (e : List Byte) :
    readCompare k c e s = spiRead c k e s := by
  rw [readCompare, hb]

/-- An aligned byte-mode store that fits appends the bits of its bytes (R202). -/
theorem storeBytes_of_fits {p : List Byte} (k : State → State) (hc : s.cursor = 0) (hfit : 8 * p.length ≤ txBits) :
    storeBytes p k s = k (putBits (wireBits p) s) := by
  rw [storeBytes, hc, if_neg (by decide), if_neg (by omega), wireBits_eq]

/-- A byte-mode delivery with nothing pending flushes exactly its payload (R208). -/
theorem deliver_byteMode (hb : s.bus = .spi) (h8 : s.cfg.spi9bit = false) (hc : s.cursor = 0) (g : Bool) {p : List Byte}
    (hfit : 8 * p.length ≤ txBits) : deliver g p s = flush false .byteWrite id (putBits (wireBits p) s) := by
  rw [deliver_spi hb, spiDeliver, if_neg (by simp [h8]), storeBytes_of_fits _ hc hfit]

/-- A 9-bit delivery that fits behind the pending bits appends its words (R203, R208). -/
theorem deliver_nineBit (hb : s.bus = .spi) (h9 : s.cfg.spi9bit = true) (g : Bool) {p : List Byte}
    (hfit : s.cursor + 9 * p.length ≤ txBits) : deliver g p s = putBits (nineBit p) s := by
  rw [deliver_spi hb, spiDeliver, if_pos h9, store9, checkRoom_of_le _ _ hfit, nineBit_eq]

theorem putBits_append (l m : List Bool) (s : State) : putBits (l ++ m) s = putBits m (putBits l s) := by
  induction l generalizing s with
  | nil => rfl
  | cons x l ih => exact ih (putBit x s)

/-- A 9-bit read with nothing pending is the full-duplex flush of its command words and the turnaround (R205, R298). -/
theorem spiRead_nineBit (h9 : s.cfg.spi9bit = true) (hc : s.cursor = 0) (hd : s.par.spiReadDummyBits ≤ 430) {k : Nat}
    (hk : k ≤ 8) (c : ReadCommand) (e : List Byte) :
    spiRead c k e s = flush true (.readTransfer9 c k e) (readReply9 c k e)
      (putBits (nineBit c.bytes ++ List.replicate (s.par.spiReadDummyBits + 8 * k) true) s) := by
  have hlen : c.bytes.length ≤ 2 := by cases c <;> simp [ReadCommand.bytes]
  rw [spiRead, flush_empty _ _ _ _ hc, readPacked, if_pos h9, readHigh, checkRoom_of_le, putBits_append, nineBit_eq,
    putBits_par]
  · simp only [putBits_cursor, putBits_par, length_frame9, txBits]
    omega

/-- A byte-mode read with nothing pending is the full-duplex flush of its command and the fill bytes (R298). -/
theorem spiRead_byteMode (h8 : s.cfg.spi9bit = false) (hc : s.cursor = 0) {k : Nat} (hk : k ≤ 8) (c : ReadCommand)
    (e : List Byte) :
    spiRead c k e s = flush true (.readTransfer8 c k e) (readReply8 c k e)
      (putBits (wireBits (c.bytes ++ List.replicate k s.par.spiByteReadFill)) s) := by
  have hlen : c.bytes.length ≤ 2 := by cases c <;> simp [ReadCommand.bytes]
  rw [spiRead, flush_empty _ _ _ _ hc, readPacked, if_neg (by simp [h8]), storeBytes_of_fits _ hc]
  simp only [List.length_append, List.length_replicate, txBits]
  omega

end

/-! ### Calls that are not answered -/

/-- Every interface may answer any call with an error (R171). -/
theorem BusCall.allows_error (c : BusCall) (kind : ErrKind) : c.allows (.error kind) = true := by
  cases c with
  | spiTransfer tx wantRx => cases wantRx <;> rfl
  | _ => rfl

/-- A delivery starts after the free values the step has drawn (R43). -/
theorem delivers_drew {s s0 : State} {i : Instr} {g : Bool} {p : List Byte} (h : Delivers s i g p s0) :
    ∃ n, s0 = s.drew n := by
  cases h with
  | dcsBuf l | dcsBufG l => exact ⟨8 * l.toNat, rfl⟩
  | inlineDcs | inlineGeneric | dcsLength | dcsLengthG => exact ⟨0, rfl⟩

theorem bus_of_ne_spi {s : State} (h : s.bus ≠ .spi) : s.bus = .mipi ∨ s.bus = .i2c := by
  cases hb : s.bus with
  | mipi => exact .inl rfl
  | i2c => exact .inr rfl
  | spi => exact absurd hb h

theorem mipiWrite_unanswered (c : BusCall) {s : State} (h : s.answers = []) :
    mipiWrite c s = s.await .waitBus (.mipiWrite c) := busCall_unanswered _ _ _ s h

/-- Settles O15: each of the calls is outstanding at once. -/
theorem unansweredCallsWait : Obligations.UnansweredCallsWait := by
  refine ⟨fun s s0 i g p hd hb ha => ?_, fun s x n hb ha => ?_, fun s i k c e hr hb ha => ?_⟩
  · rw [exec_of_delivers hd]
    obtain ⟨n, rfl⟩ := delivers_drew hd
    rcases bus_of_ne_spi hb with hm | hi
    · rw [if_pos hm, deliver_mipi (s := s.drew n) hm, mipiWrite_unanswered _ (s := s.drew n) ha]
      rfl
    · rw [if_neg (by simp [hi]), deliver_i2c (s := s.drew n) hi, i2cWrite, busCall_unanswered _ _ _ (s.drew n) ha]
      rfl
  · show Host.Outcome.next _ = _
    rw [if_pos hb, mipiWrite_unanswered _ ha]
    rfl
  · rw [exec_of_reads hr]
    rcases bus_of_ne_spi hb with hm | hi
    · rw [if_pos hm, readCompare_mipi hm, mipiRead, busCall_unanswered _ _ _ s ha]
      cases c <;> rfl
    · rw [if_neg (by simp [hi]), readCompare_i2c hi, i2cRead, busCall_unanswered _ _ _ s ha]
      cases c <;> rfl

/-! ### Second calls, and the sleep before them -/

/-- A sleep the environment does not end (R46). -/
theorem sleepThen_asleep {ms : Nat} (w : Wait) (k : State → State) {s : State} (hms : ms ≠ 0) (h : s.wakes = 0) :
    sleepThen ms w k s = (s.emit (.sleep ms)).await .waitSleep w := by
  simp [sleepThen, awaitWake, hms, h]

/-- After a first error an I²C write sleeps, then makes its second call (R179). -/
theorem i2cWrite_error (c : BusCall) {s : State} {k1 : ErrKind} {rest : List Answer} (ha : s.answers = .error k1 :: rest) :
    i2cWrite c s = sleepThen 10 (.i2cWriteSleep c) (i2cRewrite c)
      { s with answers := rest, trace := s.trace ++ [.bus c (.error k1)] } :=
  busCall_answered c _ _ s _ _ ha (c.allows_error k1)

/-- After a first error an I²C read sleeps, then makes its second call (R179). -/
theorem i2cRead_error (c : BusCall) (k : Nat) (e : List Byte) {s : State} {k1 : ErrKind} {rest : List Answer}
    (ha : s.answers = .error k1 :: rest) :
    i2cRead c k e s = sleepThen 10 (.i2cReadSleep c k e) (i2cReread c k e)
      { s with answers := rest, trace := s.trace ++ [.bus c (.error k1)] } :=
  busCall_answered c _ _ s _ _ ha (c.allows_error k1)

/-- A step that sleeps after a first error, with no response to come for its second call, waits in the sleep, or at that
call (R46, R179). -/
theorem retry_waits {c : BusCall} {w1 w2 : Wait} {second : Answer → State → State} {s t : State} {k1 : ErrKind}
    (ht : t = sleepThen 10 w1 (busCall c w2 second)
      { s with answers := [], trace := s.trace ++ [.bus c (.error k1)] }) :
    (s.wakes = 0 → t = { s with
      answers := [], run := .waitSleep, wait := some w1, trace := s.trace ++ [.bus c (.error k1), .sleep 10] }) ∧
    (∀ n, s.wakes = n + 1 → t = { s with
      answers := [], wakes := n, run := .waitBus, wait := some w2
      trace := s.trace ++ [.bus c (.error k1), .sleep 10] }) := by
  refine ⟨fun h0 => ?_, fun n hn => ?_⟩
  · rw [ht, sleepThen_asleep _ _ (by decide) (by exact h0)]
    simp [State.await, State.emit]
  · rw [ht, sleepThen_woken _ _ _ _ n (by decide) (by exact hn), busCall_unanswered (h := by rfl)]
    simp [State.await, State.emit]

/-- Settles O16: on I²C by the retry, on MIPI by a first protocol error. -/
theorem unansweredRetriesWait : Obligations.UnansweredRetriesWait := by
  refine ⟨fun s s0 i g p k1 hd hb ha => ?_, fun s i k c e call k1 hr hb ha hcall => ?_,
    fun s i k c e d1 hr hb hd1 ha => ?_⟩
  · rw [exec_of_delivers hd]
    obtain ⟨n, rfl⟩ := delivers_drew hd
    have hretry := retry_waits (i2cWrite_error (.i2cWrite s.cfg.i2cAddr (swap p)) (s := s.drew n) ha)
    rw [deliver_i2c (s := s.drew n) hb]
    exact ⟨fun h0 => ⟨_, congrArg _ (hretry.1 h0)⟩, fun m hm => ⟨_, congrArg _ (hretry.2 m hm)⟩⟩
  · rw [exec_of_reads hr, readCompare_i2c hb]
    have hcall : call = .i2cWriteRead s.cfg.i2cAddr (swap c.bytes) k := by rw [hcall]; cases c <;> rfl
    subst hcall
    have hretry := retry_waits (i2cRead_error (.i2cWriteRead s.cfg.i2cAddr (swap c.bytes) k) k e ha)
    exact ⟨fun h0 => ⟨_, congrArg _ (hretry.1 h0)⟩, fun m hm => ⟨_, congrArg _ (hretry.2 m hm)⟩⟩
  · have hallows : (mipiReadCall k c).allows (.protocolError d1) = true := by
      cases c <;> simpa [mipiReadCall, BusCall.allows] using hd1
    refine ⟨.mipiReread (mipiReadCall k c) k e, ?_⟩
    rw [exec_of_reads hr, readCompare_mipi hb, mipiRead, busCall_answered _ _ _ s _ _ ha hallows]
    show Host.Outcome.next (mipiReread _ _ _ _) = _
    rw [mipiReread, busCall_unanswered (h := by rfl)]
    cases c <;> rfl

/-- Settles O31: with nothing to flush a delay is its sleep, of 0 ms, ended, or not ended. -/
theorem delaySleeps : Obligations.DelaySleeps := by
  intro s x ms hpend
  have hexec : exec (.delay x ms) s = .next (sleepThen ms.toNat .delaySleep id s) := by
    show Host.Outcome.next (if s.bus = .spi then delayFlush ms.toNat s else delaySleep ms.toNat s) = _
    split
    · next hb => rw [delayFlush, flush_empty _ _ _ _ (hpend.resolve_left (not_not_intro hb))]; rfl
    · rfl
  have hms : ms ≠ 0 → ms.toNat ≠ 0 := fun h h0 => h (BitVec.eq_of_toNat_eq h0)
  rw [hexec]
  refine ⟨?_, fun n h0 hn => ?_, fun h0 hw => ?_⟩
  · rintro rfl
    rfl
  · rw [sleepThen_woken _ _ _ _ n (hms h0) hn]
    rfl
  · rw [sleepThen_asleep _ _ (hms h0) hw]
    rfl

/-! ### SPI transfers that are not answered -/

/-- Bits put on the empty buffer are all that is pending (R200). -/
theorem pendingBits_putBits_empty (l : List Bool) {s : State} (hc : s.cursor = 0) (hw : s.tx.wf = true) :
    pendingBits (putBits l s) = l := by
  rw [pendingBits_putBits l s hw, pendingBits, hc]
  rfl

/-- A flush of bits just put on the empty buffer, not answered (R46, R201). -/
theorem flush_putBits_unanswered (wantRx : Bool) (w : Wait) (k : State → State) {l : List Bool} (hl : l ≠ []) {s : State}
    (hc : s.cursor = 0) (hw : s.tx.wf = true) (ha : s.answers = []) :
    Unanswered s (flush wantRx w k (putBits l s)) w l := by
  have hpend := pendingBits_putBits_empty l hc hw
  have hpos : (putBits l s).cursor ≠ 0 := by simpa [hc] using hl
  obtain ⟨heq, hbits, htx⟩ := flush_unanswered wantRx w k (putBits l s) hpos (by simpa using ha) (wf_tx_putBits l s hw)
  rw [hpend] at heq hbits htx
  refine ⟨?_, hbits, fun a hle => ?_⟩
  · rw [heq, putBits_eq]
  · rw [htx a hle]
    refine read_tx_putBits l s a hw (.inr ?_)
    simp only [ceilDiv] at hle
    omega

/-- A running block takes a step of the sequencer (R46). -/
theorem step_of_running {s : State} (h : s.run = .running) : step s = sequencerStep s := by
  unfold step
  rw [h]

/-- Settles O17: each kind of transfer is a flush that is not answered. -/
theorem unansweredTransfersWait : Obligations.UnansweredTransfersWait := by
  refine ⟨fun s i hf hb hc hw ha => ?_, fun s s0 i g p hd hb h8 hc hlen hfit hw ha => ?_,
    fun s i k c e hr hb hc hdummy hw ha => ?_, fun s hrun hpc hb hc hw ha => ?_⟩
  · obtain ⟨n, w, k, hexec⟩ := exec_of_flushesFirst hf hb
    have hun := flush_unanswered false w k (s.drew n) hc ha hw
    have hdraws : (flush false w k (s.drew n)).draws = s.draws + n := (congrArg State.draws hun.1 :)
    refine ⟨_, w, hexec, ?_⟩
    rw [hdraws]
    exact hun
  · obtain ⟨n, rfl⟩ := delivers_drew hd
    refine ⟨_, .byteWrite, exec_of_delivers hd, ?_⟩
    rw [deliver_byteMode (s := s.drew n) hb h8 hc g hfit]
    refine flush_putBits_unanswered _ _ _ (fun h0 => ?_) hc hw ha
    have hlength := congrArg List.length h0
    rw [length_wireBits, List.length_nil] at hlength
    omega
  · have hk := (reads_bounds hr).2.2
    rw [exec_of_reads hr, readCompare_spi hb]
    split
    · next h9 =>
      rw [spiRead_nineBit h9 hc hdummy hk]
      refine ⟨_, _, rfl, flush_putBits_unanswered _ _ _ ?_ hc hw ha⟩
      cases c <;> simp [ReadCommand.bytes, nineBit, nineBitWord]
    · next h8 =>
      rw [spiRead_byteMode (by simpa using h8) hc hk]
      refine ⟨_, _, rfl, flush_putBits_unanswered _ _ _ ?_ hc hw ha⟩
      cases c <;> simp [ReadCommand.bytes, wireBits]
  · refine ⟨_, .finish, ?_, flush_unanswered false .finish finish { s with stepAt := s.pc } hc ha hw⟩
    rw [step_of_running hrun, sequencerStep, if_pos hpc, endProgram, if_pos hb]

end Sys2Proof.Machine

/-! PROOFS. What S_CONST stores and S_DCS_BUF emits (O29, O30, O42). -/

namespace Sys2Proof.Machine

/-- Settles O42: the source bits below 32 are those of the value. -/
theorem constWritesField : Obligations.ConstWritesField := by
  intro s x ds dl v hw
  refine ⟨_, _, rfl, cmdWrite_field ds dl v 0 s hw, fun i hi => ?_⟩
  rw [srcBit, Nat.zero_add, if_pos hi]

/-! ### The bytes S_DCS_BUF takes from CMD -/

/-- A marked bit is emitted as stored (R43, R44). -/
theorem cmdBit_of_marked {s : State} {b : Nat} (h : s.cmdw.getLsbD b = true) : cmdBit s b = storedCmdBit s b := by
  rw [cmdBit, if_pos h, storedCmdBit]

/-- Bit `b mod 8` of emitted byte `b / 8` is bit `b` of CMD (R44, R237). -/
theorem getLsbD_cmdBytes (s : State) {l b : Nat} (hb : b < 8 * l) :
    ((cmdBytes s l).getD (b / 8) 0).getLsbD (b % 8) = cmdBit s b := by
  have hi : b / 8 < l := by omega
  rw [cmdBytes, List.getD_eq_getElem?_getD, List.getElem?_map, List.getElem?_range hi, Option.map_some, Option.getD_some,
    getLsbD_byteOf _ _ (by omega), Nat.div_add_mod]

/-- Bit `j` of byte `i` of a little-endian word (R72). -/
theorem getLsbD_wordByte (v : Word) (i : Nat) {j : Nat} (hj : j < 8) : (wordByte v i).getLsbD j = v.getLsbD (8 * i + j) := by
  simp [wordByte, hj]

/-- The bytes emitted from a CMD that holds a marked word are its bytes, least significant first (R72, R237). -/
theorem cmdBytes_of_word {s : State} {v : Word} {l : Nat}
    (h : ∀ b, b < 8 * l → s.cmdw.getLsbD b = true ∧ storedCmdBit s b = v.getLsbD b) :
    cmdBytes s l = (List.range l).map (wordByte v) := by
  refine List.map_congr_left (fun i hi => BitVec.eq_of_getLsbD_eq (fun j hj => ?_))
  have hi : i < l := by simpa using hi
  obtain ⟨hmark, hbit⟩ := h (8 * i + j) (by omega)
  rw [getLsbD_byteOf _ _ hj, cmdBit_of_marked hmark, hbit, getLsbD_wordByte v i hj]

/-! ### Answered data steps -/

/-- An answered MIPI write is its event (R173). -/
theorem mipiWrite_ok {c : BusCall} {s : State} {rest : List Answer} (ha : s.answers = .ok [] :: rest)
    (hc : c.allows (.ok []) = true) :
    mipiWrite c s = { s with answers := rest, trace := s.trace ++ [.bus c (.ok [])] } :=
  busCall_answered c _ _ s _ _ ha hc

/-- An answered I²C write is its event (R177). -/
theorem i2cWrite_ok {a : BitVec 7} {p : List Byte} {s : State} {rest : List Answer} (ha : s.answers = .ok [] :: rest) :
    i2cWrite (.i2cWrite a p) s
      = { s with answers := rest, trace := s.trace ++ [.bus (.i2cWrite a p) (.ok [])] } :=
  busCall_answered _ _ _ s _ _ ha rfl

theorem dataWrite_allows_ok (g : Bool) (p : List Byte) :
    (if g then BusCall.genericWrite p else .dcsWrite p).allows (.ok []) = true := by
  cases g <;> rfl

/-- Whole bytes need no padding (R201). -/
theorem padOnes_wireBits (p : List Byte) : padOnes (wireBits p) = wireBits p := by
  simp [padOnes]

/-- The bytes of a flush of bytes just put on the empty buffer (R201, R202). -/
theorem flushed_bytes (p : List Byte) {s : State} (hc : s.cursor = 0) (hw : s.tx.wf = true) :
    (padded (putBits (wireBits p) s)).tx.readBytes 0 (ceilDiv (putBits (wireBits p) s).cursor 8) = p := by
  refine wireBits_inj _ _ ?_
  rw [wireBits_padded _ (wf_tx_putBits _ s hw), pendingBits_putBits_empty _ hc hw, padOnes_wireBits]

/-- An answered byte-mode delivery with nothing pending: CMD and its marks stay, the transfer of the payload is recorded
(R182, R208). -/
theorem deliver_byteMode_ok (g : Bool) {p : List Byte} {s : State} {rest : List Answer} (hb : s.bus = .spi)
    (h8 : s.cfg.spi9bit = false) (hc : s.cursor = 0) (hne : p ≠ []) (hfit : 8 * p.length ≤ txBits) (hw : s.tx.wf = true)
    (ha : s.answers = .ok [] :: rest) :
    deliver g p s = { s with
      tx := (deliver g p s).tx, answers := rest
      trace := s.trace ++ [.bus (.spiTransfer p false s.cfg.spiMaxHz) (.ok [])] } := by
  have hpos : (putBits (wireBits p) s).cursor ≠ 0 := by simpa [hc] using hne
  rw [deliver_byteMode hb h8 hc g hfit, flush_ok _ _ _ rest hpos (by simpa using ha), id, flushedState,
    flushed_bytes p hc hw, padded, putBits_eq _ (putBits (wireBits p) s), putBits_eq (wireBits p) s]
  simp [hc]

/-! ### The two statements -/

/-- After S_CONST of 32 bits at bit 0 the first four bytes of CMD are the value's (R72, R324, R327). -/
theorem cmdBytes_cmdWrite_const (v : Word) {s : State} (hw : s.cmd.wf = true) :
    cmdBytes (cmdWrite 0 32 v 0 s) 4 = [wordByte v 0, wordByte v 1, wordByte v 2, wordByte v 3] := by
  obtain ⟨-, hin, -⟩ := cmdWrite_field 0 32 v 0 s hw
  refine cmdBytes_of_word (l := 4) (fun b hb => ?_)
  obtain ⟨hbit, hmark⟩ := hin b (by rw [show fieldLen 0 32 = 32 from rfl]; omega)
  rw [show (0 : Byte).toNat + b = b from Nat.zero_add b] at hbit hmark
  refine ⟨hmark, ?_⟩
  rw [hbit]
  beta_reduce
  rw [srcBit, Nat.zero_add, if_pos (by omega)]

/-- Settles O29: the constant's bits are stored and marked, so S_DCS_BUF emits its bytes. -/
theorem constThenBufEmitsLittleEndian : Obligations.ConstThenBufEmitsLittleEndian := by
  intro s x v0 v1 v2 v3 rest hb hw hmax ha
  obtain ⟨u, hu⟩ : ∃ u, cmdWrite 0 32 (le32 v0 v1 v2 v3) 0 s = u := ⟨_, rfl⟩
  have heq := (cmdWrite_field 0 32 (le32 v0 v1 v2 v3) 0 s hw).1
  have hbytes := cmdBytes_cmdWrite_const (le32 v0 v1 v2 v3) hw
  obtain ⟨h0, h1, h2, h3⟩ := wordByte_le32 v0 v1 v2 v3
  rw [h0, h1, h2, h3, hu] at hbytes
  rw [hu] at heq
  have hpar : u.par = s.par := (congrArg State.par heq :)
  have hbus : u.bus = .mipi := (congrArg State.bus heq :).trans hb
  have hans : u.answers = .ok [] :: rest := (congrArg State.answers heq :).trans ha
  have hconst : exec (.constField x 0 32 (v3 ++ v2 ++ v1 ++ v0)) s = .next u := congrArg Host.Outcome.next hu
  have hbuf : exec (.dcsBuf 4) u = .next { u.drew 32 with
      answers := rest, trace := u.trace ++ [.bus (.dcsWrite [v0, v1, v2, v3]) (.ok [])] } := by
    rw [exec_of_delivers (.dcsBuf 4 (by decide) (by rw [hpar]; exact hmax)), deliver_mipi (by exact hbus),
      mipiWrite_ok (rest := rest) (by exact hans) (dataWrite_allows_ok false _)]
    rw [show (4 : Byte).toNat = 4 from rfl, hbytes]
    rfl
  refine ⟨_, by rw [execAll, hconst]; simp only [execAll, hbuf]; rfl, ?_⟩
  rw [heq]
  rfl

/-- Settles O30: the payload is read from the marked bits, and each interface carries that payload. -/
theorem storedBitsAreEmitted : Obligations.StoredBitsAreEmitted := by
  rintro s l g i rfl hl hmax
  have hd : Delivers s (if g then .dcsBufG l else .dcsBuf l) g (cmdBytes s l.toNat) (s.drew (8 * l.toNat)) := by
    cases g
    · exact .dcsBuf l hl hmax
    · exact .dcsBufG l hl hmax
  refine ⟨_, _, hd, length_cmdBytes s _, fun b hb hm => ?_, fun rest ha hspi => ?_, fun hb h9 hfit hw => ?_⟩
  · rw [getLsbD_cmdBytes s hb, cmdBit_of_marked hm]
  · refine ⟨_, exec_of_delivers hd, ?_⟩
    have ha0 : (s.drew (8 * l.toNat)).answers = .ok [] :: rest := ha
    cases hb : s.bus with
    | mipi =>
      rw [deliver_mipi (s := s.drew _) hb, mipiWrite_ok ha0 (dataWrite_allows_ok g _)]
      exact ⟨rfl, rfl, rfl, rfl⟩
    | i2c =>
      rw [deliver_i2c (s := s.drew _) hb, i2cWrite_ok ha0]
      exact ⟨rfl, rfl, rfl, rfl⟩
    | spi =>
      obtain ⟨h8, hc, hsize, hw⟩ := hspi hb
      have hlen := length_cmdBytes s l.toNat
      rw [deliver_byteMode_ok g (s := s.drew _) hb h8 hc (by rintro h0; simp [h0] at hlen; omega)
        (by rw [hlen]; simp only [txBits, txSize] at *; omega) hw ha0]
      exact ⟨rfl, rfl, rfl, rfl⟩
  · have hlen := length_cmdBytes s l.toNat
    refine ⟨_, exec_of_delivers hd, ?_⟩
    rw [deliver_nineBit (s := s.drew _) hb h9 g (by rw [hlen]; exact hfit)]
    exact ⟨by simp, by simp, by simp, by simp, pendingBits_putBits _ _ hw⟩

end Sys2Proof.Machine

/-! PROOFS. A step of a running block (O6), the bind (O55) and the state after reset (O59). -/

namespace Sys2Proof.Machine

/-- Settles O6: the step is decoded, and neither passed over nor suppressed. -/
theorem stepRunsDecodedInstruction : Obligations.StepRunsDecodedInstruction := by
  intro s i rest hrun hpc hdec hruns
  rw [step_of_running hrun, sequencerStep, if_neg (Nat.ne_of_lt hpc), hdec]
  show runStep i _ = _
  rw [runStep]
  split
  · rfl
  · next hfilter => rw [if_neg (by simpa using hruns.resolve_left hfilter)]

/-- A request of the host is served by a block that runs no program and no triple (R362). -/
theorem step_of_request {s : State} {q : Request} {qs : List Request}
    (hrun : s.run = .idle ∨ s.run = .done ∨ s.run = .aborted) (ht : s.triple = none) (hq : s.requests = q :: qs) :
    step s = serve q { s with requests := qs } := by
  rw [step_of_notRunning hrun, dispatcherStep, ht, hq]

/-- The adapters a configuration has are available (R412). -/
theorem adaptersReady_iff (c : Cfg) (a : Available) :
    adaptersReady c a = true ↔
      (c.hasI2c = true → a.i2c = true) ∧ (c.hasMipi = true → a.mipi = true) ∧ (c.hasSpi = true → a.spi = true) := by
  simp [adaptersReady, imp_iff_not_or, and_assoc]

/-- A bind where no instance is (R362, R412). -/
theorem serve_bind {s : State} (hbound : s.bound = false) (c : Cfg) (p : Params) (a : Available) :
    serve (.bind c p a) s =
      if configLegal c p then
        if adaptersReady c a then .next (recreate c p s) else .next { s with reply := some .edefer }
      else .refused .illegalConfiguration := by
  rw [serve, if_neg (by simp [hbound])]

/-- Settles O55: a bind by the two checks it makes. -/
theorem bindOutcomes : Obligations.BindOutcomes := by
  intro s c p a qs hrun ht hbound hq
  rw [step_of_request hrun ht hq, serve_bind (by exact hbound)]
  refine ⟨fun hl hi hm hs => ?_, fun hl hmissing => ?_, fun hl => ?_⟩
  · rw [if_pos hl, if_pos ((adaptersReady_iff c a).mpr ⟨hi, hm, hs⟩)]
    exact ⟨_, rfl, rfl, rfl, rfl, rfl, rfl, rfl, rfl, rfl, rfl, rfl, rfl, rfl, rfl, rfl⟩
  · rw [if_pos hl, if_neg]
    rw [adaptersReady_iff]
    rintro ⟨hi, hm, hs⟩
    rcases hmissing with ⟨h, h'⟩ | ⟨h, h'⟩ | ⟨h, h'⟩
    · simp [hi h] at h'
    · simp [hm h] at h'
    · simp [hs h] at h'
  · rw [if_neg (by simp [hl])]

/-- Settles O59: reset is a creation with a legal configuration. -/
theorem resetSatisfiesInv : Obligations.ResetSatisfiesInv :=
  recreate_inv (c := blankCfg) (p := defaultParams) (by decide) State.reset

end Sys2Proof.Machine

/-! PROOFS. Waiting is transparent (O14): a step that stopped at a call or in a sleep and is then given more answers and more
ended sleeps goes on to where it would have come with all of them there from the start. Every operation is tail-called by the
one before it, so this is one property of state transformers, kept by each operation when its continuation has it and its
re-entry point resumes it. -/

namespace Sys2Proof.Machine

/-! ### More inputs -/

/-- `s` with the answers `b` after those still to come, and `m` more sleeps the environment ends. -/
def State.more (b : List Answer) (m : Nat) (s : State) : State :=
  { s with answers := s.answers ++ b, wakes := s.wakes + m }

/-- Inside a step: RUN is Running and nothing is outstanding. -/
def State.Active (s : State) : Prop := s.run = .running ∧ s.wait = none

/-- A step has stopped at a call or in a sleep (R46). -/
def State.Suspended (s : State) : Prop := s.run = .waitBus ∨ s.run = .waitSleep

/-- If `x` is suspended, one step with `b` and `m` more inputs leads to `y`; and a sleep is outstanding only when no ended sleep
was left for it. -/
def CatchesUp (b : List Answer) (m : Nat) (x y : State) : Prop :=
  x.Suspended → step (x.more b m) = .next y ∧ (x.run = .waitSleep → x.wakes = 0)

/-- `f`, begun inside a step, does with more inputs what it does when they come once it is suspended. -/
def Transparent (b : List Answer) (m : Nat) (f : State → State) : Prop :=
  ∀ s, s.Active → CatchesUp b m (f s) (f (s.more b m))

section

variable {b : List Answer} {m : Nat} {s : State}

@[simp] theorem State.more_bus : (s.more b m).bus = s.bus := rfl
@[simp] theorem State.more_cfg : (s.more b m).cfg = s.cfg := rfl
@[simp] theorem State.more_par : (s.more b m).par = s.par := rfl
@[simp] theorem State.more_pc : (s.more b m).pc = s.pc := rfl
@[simp] theorem State.more_skip : (s.more b m).skip = s.skip := rfl
@[simp] theorem State.more_cursor : (s.more b m).cursor = s.cursor := rfl
@[simp] theorem State.more_run : (s.more b m).run = s.run := rfl
@[simp] theorem State.more_wait : (s.more b m).wait = s.wait := rfl
@[simp] theorem State.more_program : (s.more b m).program = s.program := rfl

theorem State.Active.putBits (h : s.Active) (l : List Bool) : (putBits l s).Active := by simpa [Active] using h

/-- A state that waits for nothing has nothing to catch up with. -/
theorem CatchesUp.of_not_suspended {x y : State} (h : ¬ x.Suspended) : CatchesUp b m x y := fun hx => absurd hx h

theorem CatchesUp.of_running {x y : State} (h : x.run = .running) : CatchesUp b m x y :=
  .of_not_suspended (by simp [State.Suspended, h])

theorem catchesUp_abort (s : State) (code : Result) (cause : Cause) (y : State) :
    CatchesUp b m (s.abort code cause) y := .of_not_suspended (by simp [State.Suspended])

/-- A step that stops inside goes on from its re-entry point, RUN and the outstanding wait as they were (R46, R76). -/
theorem step_more_await (h : s.Active) {r : RunState} (hr : r = .waitBus ∨ r = .waitSleep) (w : Wait) :
    step ((s.await r w).more b m) = .next (resume w (s.more b m)) := by
  obtain ⟨hrun, hwait⟩ := h
  have hresumed : { (s.await r w).more b m with run := .running, wait := none } = s.more b m := by
    simp [State.more, State.await, ← hrun, ← hwait]
  rcases hr with rfl | rfl <;> exact congrArg (fun u => Host.Outcome.next (resume w u)) hresumed

/-! ### Calls and sleeps -/

/-- A bus call, when its re-entry point makes the same call again. -/
theorem catchesUp_busCall (h : s.Active) {c : BusCall} {w : Wait} {k : Answer → State → State}
    (hw : resume w (s.more b m) = busCall c w k (s.more b m)) (hk : ∀ a, Transparent b m (k a)) :
    CatchesUp b m (busCall c w k s) (busCall c w k (s.more b m)) := by
  rw [← hw]
  refine busCall_ind (Q := fun x => CatchesUp b m x _) c w k s ?_ (fun a rest ha hallows => ?_)
  · exact fun _ => ⟨step_more_await h (.inl rfl) w, by simp⟩
  · rw [hw, busCall_answered c w k (s.more b m) a (rest ++ b) (by simp [State.more, ha]) hallows]
    exact hk a _ h

/-- An outstanding sleep, when its re-entry point is that sleep. -/
theorem catchesUp_awaitWake (h : s.Active) {w : Wait} {k : State → State}
    (hw : resume w (s.more b m) = awaitWake w k (s.more b m)) (hk : Transparent b m k) :
    CatchesUp b m (awaitWake w k s) (awaitWake w k (s.more b m)) := by
  cases hn : s.wakes with
  | zero =>
    have hwait : awaitWake w k s = s.await .waitSleep w := by simp [awaitWake, hn]
    rw [hwait, ← hw]
    exact fun _ => ⟨step_more_await h (.inr rfl) w, fun _ => hn⟩
  | succ n =>
    have hgo : awaitWake w k s = k { s with wakes := n } := by simp [awaitWake, hn]
    have hmore : awaitWake w k (s.more b m) = k (State.more b m { s with wakes := n }) := by
      simp [awaitWake, State.more, hn, Nat.add_right_comm n 1 m]
    rw [hgo, hmore]
    exact hk _ h

theorem transparent_sleepThen (ms : Nat) {w : Wait} {k : State → State} (hw : ∀ u, resume w u = awaitWake w k u)
    (hk : Transparent b m k) : Transparent b m (sleepThen ms w k) := by
  intro s h
  unfold sleepThen
  split
  · exact hk (s.emit (.sleep 0)) h
  · exact catchesUp_awaitWake (s := s.emit (.sleep ms)) h (hw _) hk

/-! ### MIPI and I²C -/

theorem transparent_mipiWrite (c : BusCall) : Transparent b m (mipiWrite c) := by
  refine fun s h => catchesUp_busCall h rfl (fun a t ht => ?_)
  cases a with
  | error => exact catchesUp_abort t _ _ _
  | ok | protocolError => exact .of_running ht.1

theorem transparent_mipiReread (c : BusCall) (k : Nat) (e : List Byte) : Transparent b m (mipiReread c k e) := by
  refine fun s h => catchesUp_busCall h rfl (fun a t ht => ?_)
  cases a <;> exact .of_running ht.1

theorem transparent_mipiRead (c : BusCall) (k : Nat) (e : List Byte) : Transparent b m (mipiRead c k e) := by
  refine fun s h => catchesUp_busCall h rfl (fun a t ht => ?_)
  cases a with
  | ok => exact .of_running ht.1
  | protocolError => exact transparent_mipiReread c k e t ht
  | error => exact catchesUp_abort t _ _ _

theorem transparent_i2cRewrite (c : BusCall) : Transparent b m (i2cRewrite c) := by
  refine fun s h => catchesUp_busCall h rfl (fun a t ht => ?_)
  cases a with
  | error => exact catchesUp_abort t _ _ _
  | ok | protocolError => exact .of_running ht.1

theorem transparent_i2cWrite (c : BusCall) : Transparent b m (i2cWrite c) := by
  refine fun s h => catchesUp_busCall h rfl (fun a t ht => ?_)
  cases a with
  | error => exact transparent_sleepThen 10 (fun _ => rfl) (transparent_i2cRewrite c) t ht
  | ok | protocolError => exact .of_running ht.1

theorem transparent_i2cReread (c : BusCall) (k : Nat) (e : List Byte) : Transparent b m (i2cReread c k e) := by
  refine fun s h => catchesUp_busCall h rfl (fun a t ht => ?_)
  cases a with
  | error => exact catchesUp_abort t _ _ _
  | ok | protocolError => exact .of_running ht.1

theorem transparent_i2cRead (c : BusCall) (k : Nat) (e : List Byte) : Transparent b m (i2cRead c k e) := by
  refine fun s h => catchesUp_busCall h rfl (fun a t ht => ?_)
  cases a with
  | error => exact transparent_sleepThen 10 (fun _ => rfl) (transparent_i2cReread c k e) t ht
  | ok | protocolError => exact .of_running ht.1

/-! ### SPI -/

theorem putBits_more (l : List Bool) (s : State) : putBits l (s.more b m) = (putBits l s).more b m := by
  induction l generalizing s with
  | nil => rfl
  | cons x l ih => exact ih (putBit x s)

theorem padded_more (s : State) : padded (s.more b m) = (padded s).more b m := putBits_more _ s

/-- Whole bytes are not padded again (R201). -/
theorem padded_padded (s : State) : padded (padded s) = padded s := by
  have hcursor := padded_cursor s
  have hnone : 8 * ceilDiv (padded s).cursor 8 - (padded s).cursor = 0 := by
    rw [hcursor]
    simp only [ceilDiv]
    omega
  rw [padded, hnone]
  rfl

/-- A flush that padded and was not answered pads nothing more when it is made again, and sends the same bytes (R201; log 12). -/
theorem flush_padded (wantRx : Bool) (w : Wait) (k : State → State) {s : State} (hc : s.cursor ≠ 0) :
    flush wantRx w k (padded s) = spiTransfer (ceilDiv s.cursor 8) wantRx w k (padded s) := by
  have hcursor := padded_cursor s
  have hbytes : ceilDiv (padded s).cursor 8 = ceilDiv s.cursor 8 := by
    rw [hcursor]
    simp only [ceilDiv]
    omega
  have hpos : (padded s).cursor ≠ 0 := by
    have := le_cursor_padded s
    omega
  rw [flush, if_neg hpos, ← padded, padded_padded, hbytes]

/-- A flush, when its re-entry point is that flush of the padded bits. -/
theorem catchesUp_flush (h : s.Active) {wantRx : Bool} {w : Wait} {k : State → State}
    (hw : resume w (padded (s.more b m)) = flush wantRx w k (padded (s.more b m))) (hk : Transparent b m k) :
    CatchesUp b m (flush wantRx w k s) (flush wantRx w k (s.more b m)) := by
  by_cases hc : s.cursor = 0
  · rw [flush_empty wantRx w k s hc, flush_empty wantRx w k (s.more b m) hc]
    exact hk s h
  · have hcm : (s.more b m).cursor ≠ 0 := hc
    rw [flush_padded wantRx w k hcm, padded_more] at hw
    have hflush : flush wantRx w k (s.more b m) = spiTransfer (ceilDiv s.cursor 8) wantRx w k ((padded s).more b m) := by
      rw [← padded_more, flush, if_neg hcm]
      rfl
    rw [hflush, flush, if_neg hc]
    refine catchesUp_busCall (s := padded s) (h.putBits _) hw (fun a t ht => ?_)
    cases a with
    | error => exact catchesUp_abort t _ _ _
    | protocolError => exact .of_running ht.1
    | ok d => exact hk { t with rx := if wantRx then t.rx.writeBytes 0 d else t.rx, cursor := 0 } ht

/-- A 9-bit append, when its re-entry point is that append: the padded bits leave it no more room than the bits did (R204). -/
theorem catchesUp_checkRoom {n : Nat} {w : Wait} {k : State → State} (hk : Transparent b m k) (h : s.Active)
    (hw : ∀ u, (s.more b m).cursor ≤ u.cursor → u.par = s.par → resume w u = checkRoom n w k u) :
    CatchesUp b m (checkRoom n w k s) (checkRoom n w k (s.more b m)) := by
  unfold checkRoom
  split
  · next hfull =>
    rw [if_pos (by exact hfull)]
    refine catchesUp_flush h ?_ (fun t ht => ?_)
    · have hle := le_cursor_padded (s.more b m)
      rw [hw _ hle (by simp), checkRoom, if_pos]
      rw [State.more_cursor] at hle
      omega
    · unfold afterRoom
      split
      · exact catchesUp_abort t _ _ _
      · exact hk t ht
  · next hroom =>
    rw [if_neg (by exact hroom)]
    exact hk s h

theorem transparent_putBits (l : List Bool) : Transparent b m (putBits l) :=
  fun _ h => .of_running (h.putBits l).1

theorem transparent_store9 (p : List Byte) : Transparent b m (store9 p) :=
  fun _ h => catchesUp_checkRoom (transparent_putBits _) h (fun _ _ _ => rfl)

theorem transparent_storeBytes (p : List Byte) {k : State → State} (hk : Transparent b m k) :
    Transparent b m (storeBytes p k) := by
  intro s h
  unfold storeBytes
  rw [State.more_cursor, putBits_more]
  split
  · exact catchesUp_abort s _ _ _
  · split
    · exact catchesUp_abort s _ _ _
    · exact hk _ (h.putBits _)

theorem transparent_byteFlush : Transparent b m (flush false .byteWrite id) :=
  fun _ h => catchesUp_flush h rfl (fun _ ht => .of_running ht.1)

theorem transparent_spiDeliver (p : List Byte) : Transparent b m (spiDeliver p) := by
  intro s h
  unfold spiDeliver
  rw [State.more_cfg]
  split
  · exact transparent_store9 p s h
  · exact transparent_storeBytes p transparent_byteFlush s h

theorem transparent_delaySleep (ms : Nat) : Transparent b m (delaySleep ms) :=
  transparent_sleepThen ms (fun _ => rfl) (fun _ ht => .of_running ht.1)

theorem transparent_delayFlush (ms : Nat) : Transparent b m (delayFlush ms) :=
  fun _ h => catchesUp_flush h rfl (transparent_delaySleep ms)

theorem transparent_readTransfer9 (c : ReadCommand) (k : Nat) (e : List Byte) :
    Transparent b m (flush true (.readTransfer9 c k e) (readReply9 c k e)) :=
  fun _ h => catchesUp_flush h rfl (fun _ ht => .of_running ht.1)

theorem transparent_readTransfer8 (c : ReadCommand) (k : Nat) (e : List Byte) :
    Transparent b m (flush true (.readTransfer8 c k e) (readReply8 c k e)) :=
  fun _ h => catchesUp_flush h rfl (fun _ ht => .of_running ht.1)

theorem transparent_readHigh (c : ReadCommand) (k : Nat) (e : List Byte) : Transparent b m (readHigh c k e) := by
  refine fun s h => catchesUp_checkRoom (fun t ht => ?_) h (fun u _ hpar => ?_)
  · rw [State.more_par, putBits_more]
    exact transparent_readTransfer9 c k e _ (ht.putBits _)
  · rw [← hpar]
    rfl

theorem transparent_readPacked (c : ReadCommand) (k : Nat) (e : List Byte) : Transparent b m (readPacked c k e) := by
  intro s h
  unfold readPacked
  rw [State.more_cfg, State.more_par, putBits_more]
  split
  · exact transparent_readHigh c k e _ (h.putBits _)
  · exact transparent_storeBytes _ (transparent_readTransfer8 c k e) s h

theorem transparent_spiRead (c : ReadCommand) (k : Nat) (e : List Byte) : Transparent b m (spiRead c k e) :=
  fun _ h => catchesUp_flush h rfl (transparent_readPacked c k e)

theorem transparent_finishFlush : Transparent b m (flush false .finish finish) :=
  fun _ h => catchesUp_flush h rfl (fun _ _ => .of_not_suspended (by simp [State.Suspended]))

/-! ### Instructions -/

theorem transparent_deliver (g : Bool) (p : List Byte) : Transparent b m (deliver g p) := by
  intro s h
  unfold deliver
  rw [State.more_bus, State.more_cfg]
  split
  · exact transparent_mipiWrite _ s h
  · exact transparent_i2cWrite _ s h
  · exact transparent_spiDeliver p s h

theorem transparent_readCompare (k : Nat) (c : ReadCommand) (e : List Byte) : Transparent b m (readCompare k c e) := by
  intro s h
  unfold readCompare
  rw [State.more_bus, State.more_cfg]
  split
  · exact transparent_mipiRead _ k e s h
  · exact transparent_i2cRead _ k e s h
  · exact transparent_spiRead c k e s h

theorem transparent_cmdWrite (ds dl : Byte) (val : Word) (ss : Nat) : Transparent b m (cmdWrite ds dl val ss) :=
  fun _ h => .of_running (by simpa [cmdWrite] using h.1)

theorem twinOutcome_sendLength (h : s.Active) (g : Bool) (p : List Byte) :
    TwinOutcome (CatchesUp b m) (sendLength g p s) (sendLength g p (s.more b m)) := by
  unfold sendLength
  rw [State.more_bus, State.more_par]
  split
  · exact .fault _
  · split
    · exact .fault _
    · exact .next (transparent_deliver g p s h)

theorem twinOutcome_sendBuf (h : s.Active) (g : Bool) (l : Byte) :
    TwinOutcome (CatchesUp b m) (sendBuf g l s) (sendBuf g l (s.more b m)) := by
  unfold sendBuf
  rw [State.more_par]
  split
  · exact .fault _
  · split
    · exact .fault _
    · exact .next (transparent_deliver g _ (s.drew (8 * l.toNat)) h)

/-- Every instruction, with more inputs, does what it does when they come once it is suspended (R76). -/
theorem twinOutcome_exec (h : s.Active) (i : Instr) : TwinOutcome (CatchesUp b m) (exec i s) (exec i (s.more b m)) := by
  cases i with
  | inlineDcs p => exact .next (transparent_deliver false p s h)
  | inlineGeneric p => exact .next (transparent_deliver true p s h)
  | dcsLength p | dcsLengthG p => exact twinOutcome_sendLength h _ p
  | dcsBuf l | dcsBufG l => exact twinOutcome_sendBuf h _ l
  | delay x ms =>
    refine .next ?_
    rw [State.more_bus]
    split
    · exact transparent_delayFlush _ s h
    · exact transparent_delaySleep _ s h
  | mrps x n =>
    refine .next ?_
    rw [State.more_bus]
    split
    · exact transparent_mipiWrite _ s h
    · exact .of_running h.1
  | dcsRead1 c0 e | dcsRead2 c0 e | dcsRead3 c0 e | dcsRead4 c0 e | dcsRead5 c0 e | dcsRead6 c0 e | dcsRead7 c0 e
  | dcsRead8 c0 e => exact .next (transparent_readCompare _ (.dcs c0) e s h)
  | dcsRead1G c0 c1 e | dcsRead2G c0 c1 e | dcsRead3G c0 c1 e | dcsRead4G c0 c1 e | dcsRead5G c0 c1 e
  | dcsRead6G c0 c1 e | dcsRead7G c0 c1 e | dcsRead8G c0 c1 e =>
    exact .next (transparent_readCompare _ (.generic c0 c1) e s h)
  | if1Lane | if2Lanes | if3Lanes | if4Lanes => exact .next (.of_running h.1)
  | constField x ds dl val => exact .next (transparent_cmdWrite ds dl val 0 s h)
  | hsync x ds dl ss | hbp x ds dl ss | hactive x ds dl ss | hfp x ds dl ss | vsync x ds dl ss | vbp x ds dl ss
  | vactive x ds dl ss | vfp x ds dl ss => exact .next (transparent_cmdWrite ds dl _ ss.toNat (s.drew 1) h)

/-! ### The sequencer -/

theorem transparent_endProgram : Transparent b m endProgram := by
  intro s h
  unfold endProgram
  rw [State.more_bus]
  split
  · exact transparent_finishFlush s h
  · exact .of_not_suspended (by simp [State.Suspended])

theorem twinOutcome_runStep (h : s.Active) (i : Instr) :
    TwinOutcome (CatchesUp b m) (runStep i s) (runStep i (s.more b m)) := by
  unfold runStep
  rw [State.more_skip]
  split
  · exact twinOutcome_exec h i
  · split
    · exact .next (.of_running h.1)
    · exact twinOutcome_exec h i

theorem twinOutcome_sequencerStep (h : s.Active) :
    TwinOutcome (CatchesUp b m) (sequencerStep s) (sequencerStep (s.more b m)) := by
  unfold sequencerStep
  rw [State.more_pc, State.more_program, State.more_par]
  split
  · exact .next (transparent_endProgram { s with stepAt := s.pc } h)
  · split
    · exact .next (catchesUp_abort _ _ _ _)
    · exact .next (catchesUp_abort _ _ _ _)
    · next i _ _ => exact twinOutcome_runStep (s := { s with stepAt := s.pc, pc := s.pc + i.stepLen }) h i

/-- A step that was suspended may be suspended a second time. -/
theorem transparent_resume (w : Wait) : Transparent b m (resume w) := by
  cases w with
  | mipiWrite c => exact transparent_mipiWrite c
  | mipiRead c k e => exact transparent_mipiRead c k e
  | mipiReread c k e => exact transparent_mipiReread c k e
  | i2cWrite c => exact transparent_i2cWrite c
  | i2cWriteSleep c => exact fun _ h => catchesUp_awaitWake h rfl (transparent_i2cRewrite c)
  | i2cRewrite c => exact transparent_i2cRewrite c
  | i2cRead c k e => exact transparent_i2cRead c k e
  | i2cReadSleep c k e => exact fun _ h => catchesUp_awaitWake h rfl (transparent_i2cReread c k e)
  | i2cReread c k e => exact transparent_i2cReread c k e
  | byteWrite => exact transparent_byteFlush
  | storeRoom p => exact transparent_store9 p
  | delayFlush ms => exact transparent_delayFlush ms
  | delaySleep => exact fun _ h => catchesUp_awaitWake h rfl (fun _ ht => .of_running ht.1)
  | readFlush c k e => exact transparent_spiRead c k e
  | readRoom c k e => exact transparent_readHigh c k e
  | readTransfer9 c k e => exact transparent_readTransfer9 c k e
  | readTransfer8 c k e => exact transparent_readTransfer8 c k e
  | finish => exact transparent_finishFlush

theorem twinOutcome_resumeStep (hw : s.wait ≠ none) :
    TwinOutcome (CatchesUp b m) (resumeStep s) (resumeStep (s.more b m)) := by
  unfold resumeStep
  rw [State.more_wait]
  split
  · next w _ => exact .next (transparent_resume w { s with run := .running, wait := none } ⟨rfl, rfl⟩)
  · next hnone => exact absurd hnone hw

end

/-! ### The dispatcher never suspends -/

section

variable {s : State} (h : ¬ s.Suspended)
include h

theorem tripleReturn_not_suspended (c : Caller) (r : Result) : ¬ (tripleReturn c r s).Suspended := by
  unfold tripleReturn
  cases c <;> cases r <;> exact h

theorem advanceTriple_not_suspended (t : Triple) : ¬ (advanceTriple t s).Suspended := by
  unfold advanceTriple
  split
  · simp [State.Suspended]
  · exact tripleReturn_not_suspended h _ _

theorem streamEnded_not_suspended (t : Triple) : ¬ (streamEnded t s).Suspended := by
  unfold streamEnded
  split
  · exact advanceTriple_not_suspended h t
  · split
    · exact tripleReturn_not_suspended h _ _
    · exact advanceTriple_not_suspended h _
  · exact tripleReturn_not_suspended h _ _
  · exact advanceTriple_not_suspended h t

theorem transition_not_suspended (t : Transition) : ¬ (transition t s).Suspended := by
  have hact : ∀ l, ¬ (s.act l).Suspended := fun _ => h
  cases t with
  | powerUp | powerDown => exact h
  | prepare =>
    rw [transition]
    split
    · exact h
    · exact advanceTriple_not_suspended (hact _) _
  | enable =>
    rw [transition]
    split
    · exact h
    · exact advanceTriple_not_suspended h _
  | disable =>
    rw [transition]
    split
    · exact advanceTriple_not_suspended (hact _) _
    · exact h
  | unprepare =>
    rw [transition]
    split <;> exact h

theorem serve_not_suspended {q : Request} {t : State} (hs : serve q s = .next t) : ¬ t.Suspended := by
  have hcreated : ∀ c p, ¬ (recreate c p s).Suspended := fun _ _ => by simp [State.Suspended, recreate, State.create]
  cases q with
  | bind c p a =>
    rw [serve] at hs
    split at hs
    · cases hs
    · split at hs
      · split at hs
        · cases hs; exact hcreated c p
        · cases hs; exact h
      · cases hs
  | unbind =>
    rw [serve] at hs
    split at hs
    · cases hs; exact hcreated blankCfg s.par
    · cases hs
  | runTriple name =>
    rw [serve] at hs
    split at hs
    · cases hs; exact advanceTriple_not_suspended h _
    · cases hs
  | transition tr =>
    rw [serve] at hs
    split at hs
    · cases hs; exact transition_not_suspended h tr
    · cases hs

theorem dispatcherStep_not_suspended {t : State} (hs : dispatcherStep s = .next t) : ¬ t.Suspended := by
  unfold dispatcherStep at hs
  split at hs
  · cases hs
    exact streamEnded_not_suspended h _
  · split at hs
    · next q rest _ => exact serve_not_suspended (s := { s with requests := rest }) h hs
    · cases hs
      exact h

end

/-! ### The statement -/

section

variable {s t : State}

/-- One step of the machine, by RUN (R46, R76). -/
theorem step_catchesUp (h : s.Inv) (b : List Answer) (m : Nat) (hs : step s = .next t) (ht : t.Suspended) :
    step (t.more b m) = step (s.more b m) ∧ (t.run = .waitSleep → t.wakes = 0) := by
  have hout : TwinOutcome (CatchesUp b m) (step s) (step (s.more b m)) := by
    cases hr : s.run with
    | running =>
      rw [step_of_running hr, step_of_running (s := s.more b m) hr]
      exact twinOutcome_sequencerStep ⟨hr, (h.midway hr).wait⟩
    | waitBus | waitSleep =>
      unfold step
      rw [State.more_run, hr]
      exact twinOutcome_resumeStep (h.waiting.mpr (by simp [hr]))
    | idle | done | aborted =>
      rw [step_of_notRunning (by simp [hr])] at hs
      exact absurd ht (dispatcherStep_not_suspended (by simp [State.Suspended, hr]) hs)
  obtain ⟨y, hy, hcatch⟩ := (hs ▸ hout).of_next
  rw [hy]
  exact hcatch ht

/-- An instruction begun inside a step. -/
theorem exec_catchesUp (h : s.Active) (b : List Answer) (m : Nat) {i : Instr} (he : exec i s = .next t)
    (ht : t.Suspended) :
    step (t.more b m) = exec i (s.more b m) ∧ (t.run = .waitSleep → t.wakes = 0) := by
  have hout := twinOutcome_exec (b := b) (m := m) h i
  obtain ⟨y, hy, hcatch⟩ := (he ▸ hout).of_next
  rw [hy]
  exact hcatch ht

theorem more_answers (b : List Answer) (s : State) : s.more b 0 = { s with answers := s.answers ++ b } := rfl

theorem more_wakes (m : Nat) (s : State) : s.more [] m = { s with wakes := s.wakes + m } := by simp [State.more]

/-- A call that used every answer is given `b`. -/
theorem more_of_no_answers (b : List Answer) (h : s.answers = []) : s.more b 0 = { s with answers := b } := by
  simp [more_answers, h]

/-- A sleep for which no ended sleep was left is given `m`. -/
theorem more_of_no_wakes (m : Nat) (h : s.wakes = 0) : s.more [] m = { s with wakes := m } := by
  simp [more_wakes, h]

end

/-- Settles O14: an instruction, or a step, catches up with the inputs that came late. -/
theorem suspensionIsTransparent : Obligations.SuspensionIsTransparent := by
  refine ⟨fun i s t a b hrun hwait he hbus hnone => ?_, fun i s t n m hrun hwait he hsleep => ?_,
    fun s t a b hinv hs hbus hnone => ?_, fun s t n m hinv hs hsleep => ?_⟩
  · rw [← more_of_no_answers b hnone]
    exact (exec_catchesUp (s := { s with answers := a }) ⟨hrun, hwait⟩ b 0 he (.inl hbus)).1
  · obtain ⟨hstep, hwakes⟩ := exec_catchesUp (s := { s with wakes := n }) ⟨hrun, hwait⟩ [] m he (.inr hsleep)
    rw [more_of_no_wakes m (hwakes hsleep), more_wakes] at hstep
    exact hstep
  · rw [← more_of_no_answers b hnone]
    exact (step_catchesUp (s := { s with answers := a }) { hinv with } b 0 hs (.inl hbus)).1
  · obtain ⟨hstep, hwakes⟩ := step_catchesUp (s := { s with wakes := n }) { hinv with } [] m hs (.inr hsleep)
    rw [more_of_no_wakes m (hwakes hsleep), more_wakes] at hstep
    exact hstep

end Sys2Proof.Machine

/-! PROOFS. On SPI the steps that need the wire flush the pending bits first (O25). -/

namespace Sys2Proof.Machine

/-! ### What a step does once its flush is made -/

@[simp] theorem flushedState_cursor (s : State) (rest : List Answer) : (flushedState s rest).cursor = 0 := rfl
@[simp] theorem flushedState_bus (s : State) (rest : List Answer) : (flushedState s rest).bus = s.bus := padded_bus s
@[simp] theorem flushedState_cfg (s : State) (rest : List Answer) : (flushedState s rest).cfg = s.cfg := padded_cfg s
@[simp] theorem flushedState_par (s : State) (rest : List Answer) : (flushedState s rest).par = s.par := padded_par s
@[simp] theorem flushedState_cmd (s : State) (rest : List Answer) : (flushedState s rest).cmd = s.cmd := putBits_cmd _ s
@[simp] theorem flushedState_cmdw (s : State) (rest : List Answer) : (flushedState s rest).cmdw = s.cmdw :=
  putBits_cmdw _ s
@[simp] theorem flushedState_draws (s : State) (rest : List Answer) : (flushedState s rest).draws = s.draws :=
  putBits_draws _ s

theorem putBits_drew (l : List Bool) (s : State) (n : Nat) : putBits l (s.drew n) = (putBits l s).drew n := by
  induction l generalizing s with
  | nil => rfl
  | cons x l ih => exact ih (putBit x s)

theorem flushedState_drew (s : State) (rest : List Answer) (n : Nat) :
    flushedState (s.drew n) rest = (flushedState s rest).drew n := by
  rw [flushedState, padded, putBits_drew]
  rfl

/-- A flush with pending bits and an answer, and the same flush made after it, go on alike (R201). -/
theorem flush_flushedState (w : Wait) (k : State → State) {s : State} {rest : List Answer} (hc : s.cursor ≠ 0)
    (ha : s.answers = .ok [] :: rest) : flush false w k s = flush false w k (flushedState s rest) := by
  rw [flush_ok w k s rest hc ha, flush_empty false w k _ rfl]

/-- A 9-bit append that does not fit behind the pending bits flushes them, then does what it does with nothing pending (R204). -/
theorem store9_flushedState (p : List Byte) {s : State} {rest : List Answer} (hc : s.cursor ≠ 0)
    (ha : s.answers = .ok [] :: rest) (hfull : s.cursor + 9 * p.length > txBits) :
    store9 p s = store9 p (flushedState s rest) := by
  unfold store9 checkRoom
  rw [if_pos hfull, flush_ok _ _ s rest hc ha, flushedState_cursor, Nat.zero_add, flush_empty _ _ _ _ rfl, afterRoom]
  split <;> rfl

/-- A data step has the same payload in a state with the same BUS, parameters, CMD and count of free values (R43, R231). -/
theorem Delivers.congr {s s0 s1 : State} {i : Instr} {g : Bool} {p : List Byte} (h : Delivers s i g p s0)
    (hbus : s1.bus = s.bus) (hpar : s1.par = s.par) (hcmd : ∀ l, cmdBytes s1 l = cmdBytes s l) :
    ∃ n, s0 = s.drew n ∧ Delivers s1 i g p (s1.drew n) := by
  cases h with
  | inlineDcs p h => exact ⟨0, rfl, .inlineDcs p h⟩
  | inlineGeneric p h => exact ⟨0, rfl, .inlineGeneric p h⟩
  | dcsLength p h1 h2 => exact ⟨0, rfl, .dcsLength p h1 (by rwa [hbus, hpar])⟩
  | dcsLengthG p h1 h2 => exact ⟨0, rfl, .dcsLengthG p h1 (by rwa [hbus, hpar])⟩
  | dcsBuf l h1 h2 => exact ⟨_, rfl, hcmd _ ▸ .dcsBuf l h1 (by rwa [hpar])⟩
  | dcsBufG l h1 h2 => exact ⟨_, rfl, hcmd _ ▸ .dcsBufG l h1 (by rwa [hpar])⟩

theorem cmdBytes_flushedState (s : State) (rest : List Answer) (l : Nat) :
    cmdBytes (flushedState s rest) l = cmdBytes s l := by
  simp [cmdBytes, cmdBit]

/-- A step that flushes first does what it does after the flush (R84, R204, R261, R298). -/
theorem exec_flushedState {s : State} {i : Instr} {rest : List Answer} (h : FlushesFirst s i) (hb : s.bus = .spi)
    (hc : s.cursor ≠ 0) (ha : s.answers = .ok [] :: rest) : exec i s = exec i (flushedState s rest) := by
  have hb1 : (flushedState s rest).bus = .spi := by rw [flushedState_bus, hb]
  cases h with
  | delay x ms =>
    show Host.Outcome.next _ = Host.Outcome.next _
    rw [if_pos hb, if_pos hb1]
    exact congrArg _ (flush_flushedState _ _ hc ha)
  | read i k c e h =>
    rw [exec_of_reads h, exec_of_reads h, readCompare_spi hb, readCompare_spi hb1]
    exact congrArg _ (flush_flushedState _ _ hc ha)
  | data i g p s0 hd h9 hfull =>
    obtain ⟨n, rfl, hd1⟩ := hd.congr (flushedState_bus s rest) (flushedState_par s rest) (cmdBytes_flushedState s rest)
    rw [exec_of_delivers hd, exec_of_delivers hd1, deliver_spi (by exact hb), deliver_spi (by exact hb1), spiDeliver,
      spiDeliver, if_pos (by exact h9), if_pos (by simpa using h9), ← flushedState_drew]
    exact congrArg _ (store9_flushedState p (s := s.drew n) hc ha hfull)

/-! ### The steps that do not flush -/

/-- TRACE, CURSOR and TX are the same in both states. -/
def SamePending (s t : State) : Prop := t.trace = s.trace ∧ t.cursor = s.cursor ∧ t.tx = s.tx

theorem samePending_cmdWrite (ds dl : Byte) (val : Word) (ss : Nat) (s : State) : SamePending s (cmdWrite ds dl val ss s) := by
  simp [SamePending, cmdWrite]

/-- Settles O25: a flush made at the start of a step and one made before it are the same. -/
theorem pendingBitsFlushedFirst : Obligations.PendingBitsFlushedFirst := by
  refine ⟨fun s i rest h hb hc hw ha => ⟨_, flushed_flushedState s rest hw ha, exec_flushedState h hb hc ha⟩,
    fun s t i k ds dl ss hi lo x v n hb hkind he => ?_⟩
  show SamePending s t
  rcases hkind with hfilter | htiming | rfl | rfl
  · rw [exec_of_filters hfilter] at he
    cases he
    exact ⟨rfl, rfl, rfl⟩
  · rw [exec_of_timing htiming] at he
    cases he
    exact samePending_cmdWrite _ _ _ _ (s.drew 1)
  · cases he
    exact samePending_cmdWrite _ _ _ _ s
  · have hmrps : exec (.mrps x n) s = .next s := congrArg Host.Outcome.next (if_neg (by simp [hb]))
    rw [hmrps] at he
    cases he
    exact ⟨rfl, rfl, rfl⟩

end Sys2Proof.Machine

/-! PROOFS. A MIPI read after a protocol error (O35). -/

namespace Sys2Proof.Machine

/-- A MIPI read may be answered, with or without a protocol error, with the bytes it asks for (R173, R174). -/
theorem mipiReadCall_allows {k : Nat} (c : ReadCommand) {d : List Byte} (hd : d.length = k) :
    (mipiReadCall k c).allows (.ok d) = true ∧ (mipiReadCall k c).allows (.protocolError d) = true := by
  cases c <;> simp [mipiReadCall, BusCall.allows, hd]

/-- A reply of `k` bytes lies in RX from byte 0, and MATCH stays only when it is what was expected (R292, R294, R295). -/
theorem compareReply_eq {d e : List Byte} {k : Nat} (hd : d.length = k) (he : e.length = k) (s : State) :
    compareReply d k e s =
      { s with rx := s.rx.writeBytes 0 d, matchSt := if d = e then s.matchSt else .mismatch } := by
  simp only [compareReply, recordMatch, equalLE_iff d e k hd he]

/-- After a first protocol error a MIPI read makes its second call (R175). -/
theorem mipiRead_protocolError {c : BusCall} (k : Nat) (e : List Byte) {s : State} {d1 : List Byte} {rest : List Answer}
    (ha : s.answers = .protocolError d1 :: rest) (hc : c.allows (.protocolError d1) = true) :
    mipiRead c k e s = mipiReread c k e { s with answers := rest, trace := s.trace ++ [.bus c (.protocolError d1)] } :=
  busCall_answered c _ _ s _ _ ha hc

/-- The bytes of the second reply count, with or without a protocol error (R175, R296). -/
theorem mipiReread_reply {c : BusCall} (k : Nat) (e : List Byte) {s : State} {d2 : List Byte} {a2 : Answer}
    {rest : List Answer} (ha2 : a2 = .ok d2 ∨ a2 = .protocolError d2) (ha : s.answers = a2 :: rest)
    (hc : c.allows a2 = true) :
    mipiReread c k e s = compareReply d2 k e { s with answers := rest, trace := s.trace ++ [.bus c a2] } := by
  rw [mipiReread, busCall_answered c _ _ s _ _ ha hc]
  rcases ha2 with rfl | rfl <;> rfl

/-- Settles O35: two calls, and the comparison of the second reply. -/
theorem mipiReadsRetryOnce : Obligations.MipiReadsRetryOnce := by
  intro s i k c e d1 d2 a2 rest hr hb hw hd1 hd2 ha2 ha
  have hallows2 : (mipiReadCall k c).allows a2 = true := by
    rcases ha2 with rfl | rfl
    · exact (mipiReadCall_allows c hd2).1
    · exact (mipiReadCall_allows c hd2).2
  refine ⟨_, mipiReadCall k c, exec_of_reads hr s, by cases c <;> rfl, ?_⟩
  rw [readCompare_mipi hb, mipiRead_protocolError k e ha (mipiReadCall_allows c hd1).2,
    mipiReread_reply k e (rest := rest) ha2 rfl hallows2, compareReply_eq hd2 (reads_bounds hr).1]
  refine ⟨by simp, fun a => ?_⟩
  rw [Memory.read_writeBytes _ 0 d2 a hw, hd2]
  simp

end Sys2Proof.Machine

/-! PROOFS. The streams of a triple, in order (O49). -/

namespace Sys2Proof.Machine

/-- A triple goes on to the first stream whose adapter is present (R351, R184, R354). -/
theorem advanceTriple_present {s : State} {t : Triple} {pre rest : List Bus} {b : Bus} (ht : t.rest = pre ++ b :: rest)
    (hpre : ∀ x ∈ pre, hasBus s.cfg x = false) (hb : hasBus s.cfg b = true) :
    advanceTriple t s = State.programEntry { s with triple := some { t with rest := rest } } t.name b := by
  rw [advanceTriple, ht, nextBus_present _ _ _ _ hpre hb]

/-- With no present adapter left a triple returns whether a stream has mismatched (R351). -/
theorem advanceTriple_absent {s : State} {t : Triple} (hrest : ∀ x ∈ t.rest, hasBus s.cfg x = false) :
    advanceTriple t s = tripleReturn t.caller (if t.seenMismatch then .mismatch else .ok) s := by
  rw [advanceTriple, nextBus_absent _ _ hrest]

/-- The host's RunTriple begins with I²C (R351, R362). -/
theorem step_runTriple {s : State} {n : ProgName} {qs : List Request}
    (hrun : s.run = .idle ∨ s.run = .done ∨ s.run = .aborted) (ht : s.triple = none) (hbound : s.bound = true)
    (hq : s.requests = .runTriple n :: qs) :
    step s = .next (advanceTriple ⟨n, [.i2c, .mipi, .spi], false, .direct⟩ { s with requests := qs }) := by
  rw [step_of_request hrun ht hq, serve, if_pos (by exact hbound)]
  rfl

/-- After a stream that ended OK the triple goes on (R351). -/
theorem step_streamOk {s : State} {t : Triple} (hrun : s.run = .done) (hres : s.result = some .ok)
    (ht : s.triple = some t) : step s = .next (advanceTriple t s) := by
  rw [step_of_notRunning (.inr (.inl hrun)), dispatcherStep, ht]
  show Host.Outcome.next (streamEnded t s) = _
  rw [streamEnded, hres]

/-- Settles O49: the next present stream, or the return, from the start and after each stream. -/
theorem tripleRunsStreamsInOrder : Obligations.TripleRunsStreamsInOrder := by
  refine ⟨fun s n qs pre rest b hrun ht hbound hq hsplit hpre hb => ?_, fun s n qs hrun ht hbound hq hall => ?_,
    fun s n pre rest b m c hrun hres ht hpre hb => ?_, fun s n rest m hrun hres ht hrest => ?_⟩
  · rw [step_runTriple hrun ht hbound hq, advanceTriple_present (s := { s with requests := qs }) hsplit hpre hb]
    rfl
  · rw [step_runTriple hrun ht hbound hq, advanceTriple_absent (s := { s with requests := qs }) (fun x _ => hall x)]
    simp [tripleReturn, afterTriple, ← ht]
  · rw [step_streamOk hrun hres ht, advanceTriple_present rfl hpre hb]
    rfl
  · rw [step_streamOk hrun hres ht, advanceTriple_absent hrest]
    rfl

end Sys2Proof.Machine

/-! PROOFS. The decoder and the encoder are inverse to each other (O1, O2), what a step consumes (O3), words written out (O4) and
the unknown opcode bytes (O5). -/

namespace Sys2Proof

/-! ### Decoding what is encoded, format by format -/

/-- The byte of a length below 256 has that length as its value (R108). -/
theorem toNat_lengthByte {p : List Byte} (hp : Instr.lengthOk p = true) : (BitVec.ofNat 8 p.length).toNat = p.length := by
  have hle : p.length ≤ 255 := by simpa [Instr.lengthOk] using hp
  simp only [BitVec.toNat_ofNat]
  omega

/-- The opcode of an inline payload has its length as its value (R103, R108). -/
theorem toNat_inlineCode {p : List Byte} (hp : Instr.inlineOk p = true) : (BitVec.ofNat 7 p.length).toNat = p.length := by
  have hle : 1 ≤ p.length ∧ p.length ≤ 0x3B := by simpa [Instr.inlineOk] using hp
  simp only [BitVec.toNat_ofNat]
  omega

/-- The row an inline opcode byte selects, by its generic flag (R102). -/
theorem decodeWith_inline (m : OpcodeMap) (g : Bool) {p : List Byte} (hp : Instr.inlineOk p = true) (rest : List Byte) :
    decodeWith m (opByte g (BitVec.ofNat 7 p.length) :: (p ++ rest)) =
      .ok (if g then .inlineGeneric p else .inlineDcs p) rest := by
  have hin : isInline (BitVec.ofNat 7 p.length) = true := by
    rw [isInline, toNat_inlineCode hp]
    exact hp
  rw [decodeWith, opCode_opByte, opGeneric_opByte, if_pos hin, toNat_inlineCode hp, takeBody_append]

/-- Under a legal map the value of a name selects the format of that name (R103, R105). -/
theorem decodeWith_code {m : OpcodeMap} (hm : m.legal = true) (o : OpName) (g : Bool) (r : List Byte) :
    decodeWith m (opByte g (m.code o) :: r) = decodeNamed o g r := by
  rw [decodeWith, opCode_opByte, opGeneric_opByte, OpcodeMap.not_inline_code hm, OpcodeMap.classify_code hm]
  rfl

theorem decodeLength_append (f : List Byte → Instr) {p : List Byte} (hp : Instr.lengthOk p = true) (rest : List Byte) :
    decodeLength f (BitVec.ofNat 8 p.length :: (p ++ rest)) = .ok (f p) rest := by
  rw [decodeLength, toNat_lengthByte hp, takeBody_append]

/-- The expected bytes of a read are the rest of its body (R105, R291). -/
theorem takeBody_expect {k : Nat} {e : List Byte} (he : Instr.expectOk k e = true) (f : List Byte → Instr)
    (rest : List Byte) : takeBody k (e ++ rest) f = .ok (f e) rest := by
  obtain rfl : e.length = k := by simpa [Instr.expectOk] using he
  exact takeBody_append e rest f

theorem decodeConst_append (x : Bool) (ds dl : Byte) (v : Word) (rest : List Byte) :
    decodeConst x (ds :: dl :: wordByte v 0 :: wordByte v 1 :: wordByte v 2 :: wordByte v 3 :: rest) =
      .ok (.constField x ds dl v) rest := by
  rw [decodeConst, le32_wordByte]

/-- Settles O1: the opcode byte selects the format, and the format reads its operands back. -/
theorem decodeOfEncode : Obligations.DecodeOfEncode := by
  intro m i rest hm hwf
  cases i with
  | inlineDcs p => exact decodeWith_inline m false hwf rest
  | inlineGeneric p => exact decodeWith_inline m true hwf rest
  | dcsLength p | dcsLengthG p => exact (decodeWith_code hm _ _ _).trans (decodeLength_append _ hwf rest)
  | dcsRead1 | dcsRead2 | dcsRead3 | dcsRead4 | dcsRead5 | dcsRead6 | dcsRead7 | dcsRead8 | dcsRead1G | dcsRead2G
  | dcsRead3G | dcsRead4G | dcsRead5G | dcsRead6G | dcsRead7G | dcsRead8G =>
    exact (decodeWith_code hm _ _ _).trans (takeBody_expect hwf _ rest)
  | constField x ds dl v => exact (decodeWith_code hm _ _ _).trans (decodeConst_append x ds dl v rest)
  | dcsBuf | dcsBufG | delay | mrps | if1Lane | if2Lanes | if3Lanes | if4Lanes | hsync | hbp | hactive | hfp | vsync
  | vbp | vactive | vfp => exact decodeWith_code hm _ _ _

/-! ### Encoding what is decoded, format by format -/

/-- The step `i` is well-formed and its bytes, before `rest`, are `bytes`. -/
def Reencodes (m : OpcodeMap) (i : Instr) (rest bytes : List Byte) : Prop :=
  i.wellFormed = true ∧ encodeWith m i ++ rest = bytes

/-- A body gives the bytes it took back, after the bytes `pre` of the step that stand before it. -/
theorem takeBody_reencodes {m : OpcodeMap} {n : Nat} {r rest pre : List Byte} {f : List Byte → Instr} {i : Instr}
    (h : takeBody n r f = .ok i rest) (hwf : ∀ p, p.length = n → (f p).wellFormed = true)
    (henc : ∀ p, p.length = n → encodeWith m (f p) = pre ++ p) : Reencodes m i rest (pre ++ r) := by
  obtain ⟨p, hp, rfl, rfl⟩ := takeBody_eq_ok h
  exact ⟨hwf p hp, by rw [henc p hp, List.append_assoc]⟩

theorem decodeLength_reencodes {m : OpcodeMap} {op : Byte} {r rest : List Byte} {f : List Byte → Instr} {i : Instr}
    (h : decodeLength f r = .ok i rest) (hwf : ∀ p, (f p).wellFormed = Instr.lengthOk p)
    (henc : ∀ p, encodeWith m (f p) = op :: BitVec.ofNat 8 p.length :: p) : Reencodes m i rest (op :: r) := by
  cases r with
  | nil => cases h
  | cons l r =>
    refine takeBody_reencodes (pre := [op, l]) h (fun p hp => ?_) (fun p hp => ?_)
    · have := l.isLt
      simp only [hwf, Instr.lengthOk, decide_eq_true_eq]
      omega
    · rw [henc, hp, BitVec.ofNat_toNat, BitVec.setWidth_eq]
      rfl

theorem decodeArg_reencodes {m : OpcodeMap} {op : Byte} {r rest : List Byte} {f : Byte → Instr} {i : Instr}
    (h : decodeArg f r = .ok i rest) (hwf : ∀ b, (f b).wellFormed = true) (henc : ∀ b, encodeWith m (f b) = [op, b]) :
    Reencodes m i rest (op :: r) := by
  cases r with
  | nil => cases h
  | cons b r =>
    cases h
    exact ⟨hwf b, by rw [henc]; rfl⟩

theorem decodeRead_reencodes {m : OpcodeMap} {k : Nat} {g : Bool} {v : BitVec 7} {r rest : List Byte}
    {dcs : Byte → List Byte → Instr} {gen : Byte → Byte → List Byte → Instr} {i : Instr}
    (h : decodeRead k g dcs gen r = .ok i rest)
    (hdcs : ∀ c0 e, (dcs c0 e).wellFormed = Instr.expectOk k e ∧ encodeWith m (dcs c0 e) = opByte false v :: c0 :: e)
    (hgen : ∀ c0 c1 e, (gen c0 c1 e).wellFormed = Instr.expectOk k e ∧
      encodeWith m (gen c0 c1 e) = opByte true v :: c0 :: c1 :: e) : Reencodes m i rest (opByte g v :: r) := by
  have hk : ∀ e : List Byte, e.length = k → Instr.expectOk k e = true := fun e he => by simpa [Instr.expectOk] using he
  cases r with
  | nil => cases h
  | cons c0 r =>
    cases g with
    | false =>
      exact takeBody_reencodes (pre := [opByte false v, c0]) h (fun e he => (hdcs c0 e).1.trans (hk e he))
        (fun e _ => (hdcs c0 e).2)
    | true =>
      cases r with
      | nil => cases h
      | cons c1 r =>
        exact takeBody_reencodes (pre := [opByte true v, c0, c1]) h (fun e he => (hgen c0 c1 e).1.trans (hk e he))
          (fun e _ => (hgen c0 c1 e).2)

theorem decodeConst_reencodes {m : OpcodeMap} {x : Bool} {r rest : List Byte} {i : Instr}
    (h : decodeConst x r = .ok i rest) : Reencodes m i rest (opByte x (m.code .constField) :: r) := by
  unfold decodeConst at h
  split at h
  · next ds dl v0 v1 v2 v3 r =>
    cases h
    obtain ⟨h0, h1, h2, h3⟩ := wordByte_le32 v0 v1 v2 v3
    exact ⟨rfl, by rw [encodeWith, h0, h1, h2, h3]; rfl⟩
  · cases h

theorem decodeTiming_reencodes {m : OpcodeMap} {op : Byte} {r rest : List Byte} {f : Byte → Byte → Byte → Instr}
    {i : Instr} (h : decodeTiming f r = .ok i rest) (hwf : ∀ ds dl ss, (f ds dl ss).wellFormed = true)
    (henc : ∀ ds dl ss, encodeWith m (f ds dl ss) = [op, ds, dl, ss]) : Reencodes m i rest (op :: r) := by
  unfold decodeTiming at h
  split at h
  · next ds dl ss r =>
    cases h
    exact ⟨hwf ds dl ss, by rw [henc]; rfl⟩
  · cases h

theorem decodeNamed_reencodes {m : OpcodeMap} {o : OpName} {g : Bool} {r rest : List Byte} {i : Instr}
    (h : decodeNamed o g r = .ok i rest) : Reencodes m i rest (opByte g (m.code o) :: r) := by
  cases o with
  | dcsLength => exact decodeLength_reencodes h (fun p => by cases g <;> rfl) (fun p => by cases g <;> rfl)
  | dcsBuf => exact decodeArg_reencodes h (fun l => by cases g <;> rfl) (fun l => by cases g <;> rfl)
  | delay | mrps => exact decodeArg_reencodes h (fun _ => rfl) (fun _ => rfl)
  | dcsRead1 | dcsRead2 | dcsRead3 | dcsRead4 | dcsRead5 | dcsRead6 | dcsRead7 | dcsRead8 =>
    exact decodeRead_reencodes h (fun _ _ => ⟨rfl, rfl⟩) (fun _ _ _ => ⟨rfl, rfl⟩)
  | if1Lane | if2Lanes | if3Lanes | if4Lanes => cases h; exact ⟨rfl, rfl⟩
  | constField => exact decodeConst_reencodes h
  | hsync | hbp | hactive | hfp | vsync | vbp | vactive | vfp =>
    exact decodeTiming_reencodes h (fun _ _ _ => rfl) (fun _ _ _ => rfl)

/-- An inline step gives its opcode byte and its payload back (R105). -/
theorem takeInline_reencodes {m : OpcodeMap} {g : Bool} {v : BitVec 7} {r rest : List Byte} {i : Instr}
    (hv : isInline v = true)
    (h : takeBody v.toNat r (fun p => if g then .inlineGeneric p else .inlineDcs p) = .ok i rest) :
    Reencodes m i rest (opByte g v :: r) := by
  refine takeBody_reencodes (pre := [opByte g v]) h (fun p hp => ?_) (fun p hp => ?_)
  · have hok : Instr.inlineOk p = true := by rw [Instr.inlineOk, hp]; exact hv
    cases g <;> exact hok
  · have hcode : BitVec.ofNat 7 p.length = v := by rw [hp, BitVec.ofNat_toNat, BitVec.setWidth_eq]
    cases g <;> exact congrArg (opByte _ · :: p) hcode

/-- Settles O2: the opcode byte is its flag and its opcode, and the format gives its operands back. -/
theorem encodeOfDecode : Obligations.EncodeOfDecode := by
  intro m bytes rest i h
  show Reencodes m i rest bytes
  cases bytes with
  | nil => cases h
  | cons op r =>
    rw [← opByte_opGeneric_opCode op]
    rw [decodeWith] at h
    split at h
    · next hin => exact takeInline_reencodes hin h
    · split at h
      · next o ho =>
        rw [← OpcodeMap.code_of_classify ho]
        exact decodeNamed_reencodes h
      · cases h

/-! ### What a step consumes -/

/-- Every step has its opcode byte (R105, R106). -/
theorem Instr.stepLen_pos (i : Instr) : 1 ≤ i.stepLen := by
  unfold Instr.stepLen
  split <;> omega

/-- Settles O3: the bytes are those of the step and those after it, and a step has its opcode byte. -/
theorem stepLengthIsBytesConsumed : Obligations.StepLengthIsBytesConsumed :=
  fun _ _ _ i h => ⟨decodeWith_consumes h, i.stepLen_pos⟩

/-! ### Words and unknown opcodes -/

/-- Settles O4: the decoder runs on each of the seven words. -/
theorem specWordsDecode : Obligations.SpecWordsDecode := ⟨rfl, rfl, rfl, rfl, rfl, rfl, rfl⟩

theorem takeBody_ne_unknownOpcode (n : Nat) (r : List Byte) (f : List Byte → Instr) :
    takeBody n r f ≠ .unknownOpcode := by
  unfold takeBody
  split <;> simp

theorem decodeLength_ne_unknownOpcode (f : List Byte → Instr) (r : List Byte) : decodeLength f r ≠ .unknownOpcode := by
  cases r with
  | nil => simp [decodeLength]
  | cons l r => exact takeBody_ne_unknownOpcode _ _ _

theorem decodeArg_ne_unknownOpcode (f : Byte → Instr) (r : List Byte) : decodeArg f r ≠ .unknownOpcode := by
  cases r <;> simp [decodeArg]

theorem decodeRead_ne_unknownOpcode (k : Nat) (g : Bool) (dcs : Byte → List Byte → Instr)
    (gen : Byte → Byte → List Byte → Instr) (r : List Byte) : decodeRead k g dcs gen r ≠ .unknownOpcode := by
  cases r with
  | nil => simp [decodeRead]
  | cons c0 r =>
    cases g with
    | false => exact takeBody_ne_unknownOpcode _ _ _
    | true =>
      cases r with
      | nil => simp [decodeRead]
      | cons c1 r => exact takeBody_ne_unknownOpcode _ _ _

theorem decodeConst_ne_unknownOpcode (x : Bool) (r : List Byte) : decodeConst x r ≠ .unknownOpcode := by
  unfold decodeConst
  split <;> simp

theorem decodeTiming_ne_unknownOpcode (f : Byte → Byte → Byte → Instr) (r : List Byte) :
    decodeTiming f r ≠ .unknownOpcode := by
  unfold decodeTiming
  split <;> simp

/-- The body of a named opcode is read or truncated: its opcode is known (R104, R106). -/
theorem decodeNamed_ne_unknownOpcode (o : OpName) (g : Bool) (r : List Byte) : decodeNamed o g r ≠ .unknownOpcode := by
  cases o with
  | dcsLength => exact decodeLength_ne_unknownOpcode _ r
  | dcsBuf | delay | mrps => exact decodeArg_ne_unknownOpcode _ r
  | dcsRead1 | dcsRead2 | dcsRead3 | dcsRead4 | dcsRead5 | dcsRead6 | dcsRead7 | dcsRead8 =>
    exact decodeRead_ne_unknownOpcode _ g _ _ r
  | if1Lane | if2Lanes | if3Lanes | if4Lanes => simp [decodeNamed]
  | constField => exact decodeConst_ne_unknownOpcode g r
  | hsync | hbp | hactive | hfp | vsync | vbp | vactive | vfp => exact decodeTiming_ne_unknownOpcode _ r

/-- A step is an unknown opcode by its first byte alone: no inline length, and no name in the map (R104). -/
theorem decodeWith_eq_unknownOpcode_iff (m : OpcodeMap) (op : Byte) (r : List Byte) :
    decodeWith m (op :: r) = .unknownOpcode ↔ isInline (opCode op) = false ∧ m.classify (opCode op) = none := by
  rw [decodeWith]
  split
  · next hin => simp [hin, takeBody_ne_unknownOpcode]
  · next hin =>
    cases hc : m.classify (opCode op) with
    | some o => simp [decodeNamed_ne_unknownOpcode]
    | none => simpa using hin

/-- The bytes of R104 are those whose opcode the default map leaves out, with either generic flag. -/
theorem default_unknown_iff (op : Byte) :
    (isInline (opCode op) = false ∧ OpcodeMap.default.classify (opCode op) = none) ↔
      (op = 0x00 ∨ op = 0x80 ∨ (0x55 ≤ op.toNat ∧ op.toNat ≤ 0x7F) ∨ 0xD5 ≤ op.toNat) := by
  revert op
  decide

/-- Settles O5: the first byte decides, and the default map is looked up for each of its values. -/
theorem unknownOpcodeBytes : Obligations.UnknownOpcodeBytes :=
  fun op r => (decodeWith_eq_unknownOpcode_iff _ op r).trans (default_unknown_iff op)

end Sys2Proof

/-! PROOFS. An iteration of the sequencer: the two failures of the decoder (O8, O9), what stays and what advances (O11), and the
ignored generic flag (O28). -/

namespace Sys2Proof.Machine

/-! ### The failures of the decoder -/

/-- Settles O8: the iteration aborts at the decoder, before SKIP is looked at. -/
theorem unknownOpcodeAborts : Obligations.UnknownOpcodeAborts := by
  intro s hrun hpc hdec
  rw [step_of_running hrun, sequencerStep, if_neg (Nat.ne_of_lt hpc), hdec]
  rfl

/-- Inside the program, the PC a truncated step leaves is its end (R31, R106). -/
theorem pcAtEnd_of_le {s : State} (h : s.pc ≤ s.program.length) : pcAtEnd s = s.program.length := max_eq_right h

/-- Settles O9: the iteration aborts at the decoder, before SKIP is looked at. -/
theorem truncatedStepAborts : Obligations.TruncatedStepAborts := by
  intro s hrun hpc hdec
  rw [step_of_running hrun, sequencerStep, if_neg (Nat.ne_of_lt hpc), hdec, pcAtEnd_of_le hpc.le]
  rfl

/-! ### What an iteration advances -/

/-- The program being run and the place in it are the same in both states. -/
def SamePlace (s t : State) : Prop := t.program = s.program ∧ t.pc = s.pc

/-- No update inside an instruction writes the program or PC. -/
theorem walk_samePlace (s : State) : Walk (SamePlace s) (SamePlace s) where
  stop _ h := h
  await _ _ _ _ h := h
  abort _ _ _ _ h := h
  call _ _ _ _ _ h := h
  sleep _ _ h := h
  wake _ _ h := h
  draw _ _ h := h
  pack _ _ _ h := h
  receive _ _ h := h
  compare _ _ _ _ h := h
  filter _ _ h := h
  field t b l h := by simpa [SamePlace, State.program] using h

theorem samePlace_runStep {s t : State} {i : Instr} (h : runStep i s = .next t) : SamePlace s t := by
  unfold runStep at h
  split at h
  · exact (walk_samePlace s).exec h ⟨rfl, rfl⟩
  · split at h
    · cases h; exact ⟨rfl, rfl⟩
    · exact (walk_samePlace s).exec h ⟨rfl, rfl⟩

theorem samePlace_endProgram (s : State) : SamePlace s (endProgram s) := by
  have hrefl : SamePlace s s := ⟨rfl, rfl⟩
  unfold endProgram
  split
  · exact (walk_samePlace s).flush (fun _ ht => ht) hrefl
  · exact hrefl

/-- Program end leaves the block done, aborted, or waiting for its flush (R147). -/
theorem endProgram_run_ne_running (s : State) : (endProgram s).run ≠ .running := by
  unfold endProgram
  split
  · refine flush_ind (Q := fun t => t.run ≠ .running) _ _ _ s (fun _ => by simp) (fun _ => ?_)
    exact spiTransfer_ind (Q := fun t => t.run ≠ .running) _ _ _ _ _ (by simp) (fun _ _ _ => by simp)
      (fun _ _ _ _ => by simp)
  · simp

/-- Settles O11: at program end the block does not stay running; before it a step is decoded and PC passes its bytes. -/
theorem everyIterationAdvances : Obligations.EveryIterationAdvances := by
  intro s t hrun hpc hstep
  rw [step_of_running hrun, sequencerStep] at hstep
  split at hstep
  · cases hstep
    obtain ⟨hprog, hat⟩ := samePlace_endProgram { s with stepAt := s.pc }
    exact ⟨hprog, hat.trans_le hpc, fun hr => absurd hr (endProgram_run_ne_running _)⟩
  · next hend =>
    split at hstep
    · cases hstep
      exact ⟨rfl, by show s.pc + 1 ≤ _; omega, fun hr => absurd hr (by simp)⟩
    · cases hstep
      exact ⟨rfl, (pcAtEnd_of_le hpc).le, fun hr => absurd hr (by simp)⟩
    · next i rest hdec =>
      obtain ⟨hprog, hat⟩ := samePlace_runStep hstep
      have hlen := decodeWith_consumes hdec
      have hpos := i.stepLen_pos
      rw [List.length_drop] at hlen
      have hpc' : t.pc = s.pc + i.stepLen := hat
      exact ⟨hprog, by omega, fun _ => by omega⟩

/-! ### The ignored generic flag -/

/-- Off MIPI a delivery does not look at the generic flag (R102, R231). -/
theorem deliver_of_ne_mipi {s : State} (hb : s.bus ≠ .mipi) (g : Bool) (p : List Byte) :
    deliver g p s = deliver false p s := by
  unfold deliver
  split
  · next h => exact absurd h hb
  · rfl
  · rfl

theorem sendLength_of_ne_mipi {s : State} (hb : s.bus ≠ .mipi) (g : Bool) (p : List Byte) :
    sendLength g p s = sendLength false p s := by
  rw [sendLength, deliver_of_ne_mipi hb, sendLength]

theorem sendBuf_of_ne_mipi {s : State} (hb : s.bus ≠ .mipi) (g : Bool) (l : Byte) :
    sendBuf g l s = sendBuf false l s := by
  rw [sendBuf, deliver_of_ne_mipi (by exact hb), sendBuf]

/-- Settles O28: a data step's flag goes to its delivery, and no other meaning has the flag in its body. -/
theorem genericFlagIgnored : Obligations.GenericFlagIgnored :=
  ⟨fun _ p l hb => ⟨congrArg Host.Outcome.next (deliver_of_ne_mipi hb true p), sendLength_of_ne_mipi hb true p,
      sendBuf_of_ne_mipi hb true l⟩,
    fun _ _ _ _ _ _ _ => ⟨rfl, rfl, rfl, rfl, rfl, rfl, rfl, rfl, rfl, rfl, rfl, rfl, rfl, rfl, rfl⟩⟩

end Sys2Proof.Machine

/-! PROOFS. A passed-over step (O7), program end (O10) and lane filters in a row (O12). -/

namespace Sys2Proof.Machine

/-! ### Where the next step starts -/

/-- The bytes after a decoded step are where PC stands after it (R31, R106). -/
theorem drop_stepLen_of_decodeWith {m : OpcodeMap} {bytes rest : List Byte} {i : Instr}
    (h : decodeWith m bytes = .ok i rest) : bytes.drop i.stepLen = rest := by
  obtain ⟨-, hbytes⟩ := encodeOfDecode m bytes rest i h
  have hlen := decodeWith_consumes h
  rw [← hbytes, List.length_append] at hlen
  rw [← hbytes, List.drop_left' (by omega)]

/-- A step that decodes starts before the end of the program (R141, R142). -/
theorem pc_lt_of_decodeWith {s : State} {m : OpcodeMap} {rest : List Byte} {i : Instr}
    (h : decodeWith m (s.program.drop s.pc) = .ok i rest) : s.pc < s.program.length := by
  have hlen := decodeWith_consumes h
  have hpos := i.stepLen_pos
  rw [List.length_drop] at hlen
  omega

theorem stepLen_of_filters {i : Instr} {k : Nat} (h : Filters i k) : i.stepLen = 1 := by cases h <;> rfl

/-- A run of one more step than `n` is that step and a run of `n`. -/
theorem run_succ_of_step {s t : State} (h : step s = .next t) (n : Nat) :
    Host.Core.run Sys2Proof.core (n + 1) s = Host.Core.run Sys2Proof.core n t := by
  have hcore : Sys2Proof.core.step s = .next t := h
  simp only [Host.Core.run, hcore]

/-! ### SKIP -/

/-- A filter sets SKIP when its lane count is not the configured one, and never clears it (R266). -/
theorem laneSkip_eq (k : Nat) (s : State) :
    laneSkip k s = { s with skip := s.skip || decide (s.cfg.dsiLanes ≠ k) } := by
  by_cases hk : s.cfg.dsiLanes = k <;> simp [laneSkip, hk]

/-- An iteration that starts with SKIP 1 at a step that is no lane filter passes over it (R143). -/
theorem step_of_passedOver {s : State} {i : Instr} {rest : List Byte} (hrun : s.run = .running)
    (hdec : decodeWith s.par.opcodes (s.program.drop s.pc) = .ok i rest) (hi : i.isLaneFilter = false)
    (hskip : s.skip = true) : step s = .next { s with stepAt := s.pc, pc := s.pc + i.stepLen, skip := false } := by
  rw [step_of_running hrun, sequencerStep, if_neg (Nat.ne_of_lt (pc_lt_of_decodeWith hdec)), hdec]
  show runStep i _ = _
  rw [runStep, if_neg (by simp [hi]), if_pos (by exact hskip)]

/-- An iteration at a lane filter whose lane count is not the configured one leaves SKIP 1 (R143, R266). -/
theorem step_of_mismatchedFilter {s : State} {f : Instr} {k : Nat} {rest : List Byte} (hrun : s.run = .running)
    (hdec : decodeWith s.par.opcodes (s.program.drop s.pc) = .ok f rest) (hf : Filters f k)
    (hk : s.cfg.dsiLanes ≠ k) : step s = .next { s with stepAt := s.pc, pc := s.pc + 1, skip := true } := by
  rw [stepRunsDecodedInstruction s f rest hrun (pc_lt_of_decodeWith hdec) hdec (.inl (isLaneFilter_of_filters hf)),
    exec_of_filters hf, laneSkip_eq, stepLen_of_filters hf]
  simp [hk]

/-- Settles O7: the second clause is the filter's iteration, which leaves SKIP 1, and then the first. -/
theorem passedOverStepHasNoEffect : Obligations.PassedOverStepHasNoEffect := by
  refine ⟨fun s i rest hrun _ hdec hi hskip => step_of_passedOver hrun hdec hi hskip,
    fun s f i k r1 rest hrun _ hf hk hi hdecf hdeci => ?_⟩
  have hnext : s.program.drop (s.pc + 1) = r1 := by
    rw [← drop_stepLen_of_decodeWith hdecf, List.drop_drop, stepLen_of_filters hf]
  rw [run_succ_of_step (step_of_mismatchedFilter hrun hdecf hf hk),
    run_succ_of_step (step_of_passedOver (rest := rest) (by exact hrun) (by rw [← hdeci, ← hnext]; rfl) hi rfl)]
  rfl

/-- Settles O12, by induction on the list: each filter adds its own comparison to SKIP and leaves the lane count. -/
theorem laneFiltersCombineByAnd : Obligations.LaneFiltersCombineByAnd := by
  intro fs
  induction fs with
  | nil => intro s _; simp [execAll]
  | cons f fs ih =>
    intro s hfs
    obtain ⟨hf, hrest⟩ := List.forall_mem_cons.mp hfs
    rw [List.map_cons, execAll, exec_of_filters hf s, laneSkip_eq]
    show execAll (fs.map Prod.fst) _ = _
    rw [ih _ hrest, List.any_cons, ← Bool.or_assoc]

/-! ### Program end -/

/-- A running block with PC at the end of its program ends it (R141, R147). -/
theorem step_of_programEnd {s : State} (hrun : s.run = .running) (hpc : s.pc = s.program.length) :
    step s = .next (endProgram { s with stepAt := s.pc }) := by
  rw [step_of_running hrun, sequencerStep, if_pos hpc]

theorem endProgram_spi {s : State} (hb : s.bus = .spi) : endProgram s = flush false .finish finish s := if_pos hb

/-- Off SPI, or with no bit pending, program end makes no flush (R147, R201). -/
theorem endProgram_of_nothingPending {s : State} (h : s.bus ≠ .spi ∨ s.cursor = 0) : endProgram s = finish s := by
  by_cases hb : s.bus = .spi
  · rw [endProgram_spi hb, flush_empty _ _ _ _ (h.resolve_left (not_not_intro hb))]
  · exact if_neg hb

/-- With pending bits and an answer, program end is `finish` after the flush (R147, R201). -/
theorem endProgram_answered {s : State} {rest : List Answer} (hb : s.bus = .spi) (hc : s.cursor ≠ 0)
    (ha : s.answers = .ok [] :: rest) : endProgram s = finish (flushedState s rest) := by
  rw [endProgram_spi hb, flush_ok _ _ s rest hc ha]

@[simp] theorem flushedState_matchSt (s : State) (rest : List Answer) : (flushedState s rest).matchSt = s.matchSt :=
  putBits_matchSt _ s

/-- Settles O10: program end is `finish`, behind the flush when bits are pending. -/
theorem programEndFoldsResult : Obligations.ProgramEndFoldsResult := by
  refine ⟨fun s hrun hpc hnone => ?_, fun s rest hrun hpc hb hc hw ha => ?_,
    fun s kind rest hrun hpc hb hc hw ha => ?_⟩
  · rw [step_of_programEnd hrun hpc, endProgram_of_nothingPending (by exact hnone)]
    rfl
  · refine ⟨flushedState { s with stepAt := s.pc } rest, flushed_flushedState _ rest hw ha, ?_⟩
    rw [step_of_programEnd hrun hpc, endProgram_answered (s := { s with stepAt := s.pc }) hb hc ha, finish,
      flushedState_matchSt]
  · refine ⟨_, flush_error .finish finish { s with stepAt := s.pc } kind rest hc ha hw, ?_⟩
    rw [step_of_programEnd hrun hpc, endProgram_spi (by exact hb)]

end Sys2Proof.Machine

/-! PROOFS. Data steps and S_MRPS on MIPI and I²C, answered and failing (O18, O19, O32). -/

namespace Sys2Proof.Machine

/-! ### Writes that fail, and the I²C retry -/

section

variable {s : State} {k1 k2 kind : ErrKind} {rest : List Answer} {n : Nat}

/-- An error of a MIPI write aborts with it (R173, R176). -/
theorem mipiWrite_error (c : BusCall) (ha : s.answers = .error kind :: rest) :
    mipiWrite c s = State.abort { s with answers := rest, trace := s.trace ++ [.bus c (.error kind)] } (.ebus kind)
      .busWrite :=
  busCall_answered c _ _ s _ _ ha (c.allows_error kind)

/-- After a first error, with the sleep ended and the identical call answered, the step goes on with that answer (R179). -/
theorem retry_answered {c : BusCall} {w1 w2 : Wait} {second : Answer → State → State} {a2 : Answer}
    (hallows : c.allows a2 = true) (hn : s.wakes = n + 1) :
    sleepThen 10 w1 (busCall c w2 second)
        { s with answers := a2 :: rest, trace := s.trace ++ [.bus c (.error k1)] }
      = second a2 { s with
          answers := rest, wakes := n, trace := s.trace ++ [.bus c (.error k1), .sleep 10, .bus c a2] } := by
  rw [sleepThen_woken _ _ _ _ n (by decide) (by exact hn), busCall_answered c w2 second _ a2 rest rfl hallows]
  simp [State.emit]

/-- An I²C write that fails once and then is answered (R179, R180). -/
theorem i2cWrite_retried {a : BitVec 7} {p : List Byte} (ha : s.answers = .error k1 :: .ok [] :: rest)
    (hn : s.wakes = n + 1) :
    i2cWrite (.i2cWrite a p) s = { s with
      answers := rest, wakes := n
      trace := s.trace ++ [.bus (.i2cWrite a p) (.error k1), .sleep 10, .bus (.i2cWrite a p) (.ok [])] } := by
  rw [i2cWrite_error _ ha]
  exact retry_answered rfl hn

/-- An I²C write that fails twice aborts with the second error (R179, R180). -/
theorem i2cWrite_failed (c : BusCall) (ha : s.answers = .error k1 :: .error k2 :: rest) (hn : s.wakes = n + 1) :
    i2cWrite c s = State.abort { s with
        answers := rest, wakes := n
        trace := s.trace ++ [.bus c (.error k1), .sleep 10, .bus c (.error k2)] } (.ebus k2) .busWrite := by
  rw [i2cWrite_error _ ha]
  exact retry_answered (c.allows_error k2) hn

end

/-! ### The three statements -/

/-- Settles O18: a data step on MIPI is one write, answered or failing. -/
theorem mipiDataSteps : Obligations.MipiDataSteps := by
  intro s s0 i g p rest hd hb
  rw [exec_of_delivers hd]
  obtain ⟨n, rfl⟩ := delivers_drew hd
  rw [deliver_mipi (s := s.drew n) hb]
  exact ⟨fun ha => congrArg _ (mipiWrite_ok (s := s.drew n) ha (dataWrite_allows_ok g p)),
    fun kind ha => congrArg _ (mipiWrite_error (s := s.drew n) _ ha)⟩

/-- Settles O19: a data step on I²C is one write, which is retried once. -/
theorem i2cDataSteps : Obligations.I2cDataSteps := by
  intro s s0 i g p rest hd hb
  rw [exec_of_delivers hd]
  obtain ⟨n, rfl⟩ := delivers_drew hd
  rw [deliver_i2c (s := s.drew n) hb]
  exact ⟨fun ha => congrArg _ (i2cWrite_ok (s := s.drew n) ha),
    fun k1 m ha hm => congrArg _ (i2cWrite_retried (s := s.drew n) ha hm),
    fun k1 k2 m ha hm => congrArg _ (i2cWrite_failed (s := s.drew n) _ ha hm)⟩

/-- Settles O32: on MIPI S_MRPS is one call, on the other buses nothing. -/
theorem mrpsSetsPacketSize : Obligations.MrpsSetsPacketSize := by
  intro s x n
  have hmipi (hb : s.bus = .mipi) : exec (.mrps x n) s = .next (mipiWrite (.setMaxReturnPacketSize n) s) :=
    congrArg Host.Outcome.next (if_pos hb)
  refine ⟨fun rest hb ha => ?_, fun kind rest hb ha => ?_, fun hb => congrArg Host.Outcome.next (if_neg hb)⟩
  · rw [hmipi hb, mipiWrite_ok ha rfl]
  · rw [hmipi hb, mipiWrite_error _ ha]
    rfl

end Sys2Proof.Machine

/-! PROOFS. Reads on MIPI and I²C: the reply compared, the retries, the errors (O34, O36, O37). -/

namespace Sys2Proof.Machine

/-! ### The reply of a read -/

/-- Reading a buffer after bytes were written from address 0. -/
theorem Memory.read_writeBytes_zero {m : Memory} (l : List Byte) (a : Nat) (h : m.wf = true) :
    (m.writeBytes 0 l).read a = if a < l.length then l.getD a 0 else m.read a := by
  rw [Memory.read_writeBytes m 0 l a h]
  simp

section

variable {s : State} {k n : Nat} {c : BusCall} {e d : List Byte} {kind k1 k2 : ErrKind} {rest : List Answer}

/-- An answered MIPI read compares its reply (R175). -/
theorem mipiRead_ok (k : Nat) (e : List Byte) (ha : s.answers = .ok d :: rest) (hc : c.allows (.ok d) = true) :
    mipiRead c k e s = compareReply d k e { s with answers := rest, trace := s.trace ++ [.bus c (.ok d)] } :=
  busCall_answered c _ _ s _ _ ha hc

/-- An error at the first attempt of a MIPI read aborts with it (R175). -/
theorem mipiRead_error (c : BusCall) (k : Nat) (e : List Byte) (ha : s.answers = .error kind :: rest) :
    mipiRead c k e s = State.abort { s with answers := rest, trace := s.trace ++ [.bus c (.error kind)] } (.ebus kind)
      .busRead :=
  busCall_answered c _ _ s _ _ ha (c.allows_error kind)

/-- An error at the second attempt of a MIPI read is taken as success with free bytes (R175, R296; log 8). -/
theorem mipiReread_error (c : BusCall) (k : Nat) (e : List Byte) (ha : s.answers = .error kind :: rest) :
    mipiReread c k e s = compareReply (freeBytes s.draws k) k e
      (State.drew { s with answers := rest, trace := s.trace ++ [.bus c (.error kind)] } k) :=
  busCall_answered c _ _ s _ _ ha (c.allows_error kind)

/-- An answered I²C read compares its reply (R179). -/
theorem i2cRead_ok (k : Nat) (e : List Byte) (ha : s.answers = .ok d :: rest) (hc : c.allows (.ok d) = true) :
    i2cRead c k e s = compareReply d k e { s with answers := rest, trace := s.trace ++ [.bus c (.ok d)] } :=
  busCall_answered c _ _ s _ _ ha hc

/-- An I²C read that fails once and then is answered compares that reply (R179). -/
theorem i2cRead_retried (k : Nat) (e : List Byte) (ha : s.answers = .error k1 :: .ok d :: rest)
    (hc : c.allows (.ok d) = true) (hn : s.wakes = n + 1) :
    i2cRead c k e s = compareReply d k e { s with
      answers := rest, wakes := n, trace := s.trace ++ [.bus c (.error k1), .sleep 10, .bus c (.ok d)] } := by
  rw [i2cRead_error _ _ _ ha]
  exact retry_answered hc hn

/-- An I²C read that fails twice aborts with the second error (R179, R180). -/
theorem i2cRead_failed (c : BusCall) (k : Nat) (e : List Byte) (ha : s.answers = .error k1 :: .error k2 :: rest)
    (hn : s.wakes = n + 1) :
    i2cRead c k e s = State.abort { s with
      answers := rest, wakes := n
      trace := s.trace ++ [.bus c (.error k1), .sleep 10, .bus c (.error k2)] } (.ebus k2) .busRead := by
  rw [i2cRead_error _ _ _ ha]
  exact retry_answered (c.allows_error k2) hn

end

/-! ### The three statements -/

/-- Settles O34: one call, and the comparison of its reply. -/
theorem mipiReadsCompare : Obligations.MipiReadsCompare := by
  intro s i k c e d rest hr hb hw hd ha
  refine ⟨_, exec_of_reads hr s, ?_⟩
  rw [readCompare_mipi hb, mipiRead_ok k e ha (mipiReadCall_allows c hd).1, compareReply_eq hd (reads_bounds hr).1]
  refine ⟨by cases c <;> rfl, fun a => ?_⟩
  rw [← hd]
  exact Memory.read_writeBytes_zero d a hw

/-- Settles O36: the second attempt's error is a comparison of `k` free bytes, the first attempt's an abort. -/
theorem mipiReadForcedOrAborted : Obligations.MipiReadForcedOrAborted := by
  intro s i k c e kind rest hr hb hw
  refine ⟨fun d1 hd1 ha => ?_, fun ha => ?_⟩
  · have hlen := length_freeBytes s.draws k
    refine ⟨_, mipiReadCall k c, exec_of_reads hr s, by cases c <;> rfl, ?_⟩
    rw [readCompare_mipi hb, mipiRead_protocolError k e ha (mipiReadCall_allows c hd1).2,
      mipiReread_error (rest := rest) _ k e rfl, compareReply_eq hlen (reads_bounds hr).1]
    refine ⟨by simp [State.drew], ?_, fun a hk => ?_⟩
    · show (if _ then s.matchSt else _) = _ ∨ _
      split
      · exact .inl rfl
      · exact .inr rfl
    · refine (Memory.read_writeBytes_zero _ a hw).trans (if_neg ?_)
      omega
  · rw [exec_of_reads hr, readCompare_mipi hb, mipiRead_error _ k e ha]
    cases c <;> rfl

/-- Settles O37: one call of the swapped command, retried once, and the comparison of the reply. -/
theorem i2cReadsCompare : Obligations.I2cReadsCompare := by
  intro s i k c e d call rest hr hb hw hd hcall
  have hswap : call = .i2cWriteRead s.cfg.i2cAddr (swap c.bytes) k := by rw [hcall]; cases c <;> rfl
  have hallows : call.allows (.ok d) = true := by rw [hswap]; simpa [BusCall.allows] using hd
  have hrx (a : Nat) := Memory.read_writeBytes_zero d a hw
  rw [hd] at hrx
  rw [exec_of_reads hr, readCompare_i2c hb, ← hswap]
  refine ⟨fun ha => ⟨_, rfl, ?_⟩, fun k1 n ha hn => ⟨_, rfl, ?_⟩, fun k1 k2 n ha hn => ?_⟩
  · rw [i2cRead_ok k e ha hallows, compareReply_eq hd (reads_bounds hr).1]
    exact ⟨rfl, hrx⟩
  · rw [i2cRead_retried k e ha hallows hn, compareReply_eq hd (reads_bounds hr).1]
    exact ⟨rfl, hrx⟩
  · rw [i2cRead_failed call k e ha hn]
    rfl

end Sys2Proof.Machine

/-! PROOFS. Every byte sequence transmitted on I²C is swapped (O20). -/

namespace Sys2Proof.Machine

/-! ### The events an operation appends -/

/-- From `s` to `t` only events with the property `P` are appended to TRACE. -/
def Appends (P : Event → Prop) (s t : State) : Prop := ∃ evs, t.trace = s.trace ++ evs ∧ ∀ e ∈ evs, P e

section

variable {P : Event → Prop} {s t : State}

theorem Appends.of_trace_eq (h : t.trace = s.trace) : Appends P s t := ⟨[], by simp [h], by simp⟩

/-- One more event with the property. -/
theorem Appends.snoc (h : Appends P s t) {u : State} {e : Event} (hu : u.trace = t.trace ++ [e]) (he : P e) :
    Appends P s u := by
  obtain ⟨evs, htrace, hevs⟩ := h
  refine ⟨evs ++ [e], by simp [hu, htrace], fun x hx => ?_⟩
  rcases List.mem_append.mp hx with hx | hx
  · exact hevs x hx
  · rwa [List.mem_singleton.mp hx]

/-- The events appended are all of one kind, however they are listed. -/
theorem Appends.mem (h : Appends P s t) {evs : List Event} (ht : t.trace = s.trace ++ evs) {e : Event} (he : e ∈ evs) :
    P e := by
  obtain ⟨evs', htrace, hevs⟩ := h
  exact hevs e (by rwa [← List.append_cancel_left (ht.symm.trans htrace)])

theorem Appends.busCall {c : BusCall} {w : Wait} {k : Answer → State → State} (h : Appends P s t)
    (hc : ∀ a, P (.bus c a)) (hk : ∀ a u, Appends P s u → Appends P s (k a u)) : Appends P s (busCall c w k t) :=
  busCall_ind c w k t h (fun a _ _ _ => hk a _ (h.snoc rfl (hc a)))

theorem Appends.sleepThen {ms : Nat} {w : Wait} {k : State → State} (h : Appends P s t)
    (hsleep : ∀ n, P (.sleep n)) (hk : ∀ u, Appends P s u → Appends P s (k u)) : Appends P s (sleepThen ms w k t) :=
  sleepThen_ind ms w k t (fun _ => hk _ (h.snoc rfl (hsleep 0))) (fun _ => h.snoc rfl (hsleep ms))
    (fun _ _ _ => hk _ (h.snoc rfl (hsleep ms)))

variable (hsleep : ∀ n, P (.sleep n)) {c : BusCall} (hc : ∀ a, P (.bus c a))
include hsleep hc

/-- An I²C write appends its call, once or twice, and sleeps (R179). -/
theorem Appends.i2cWrite (h : Appends P s t) : Appends P s (i2cWrite c t) := by
  refine h.busCall hc (fun a u hu => ?_)
  cases a with
  | error =>
    refine hu.sleepThen hsleep (fun v hv => hv.busCall hc (fun a2 x hx => ?_))
    cases a2 <;> exact hx
  | ok | protocolError => exact hu

/-- An I²C read appends its call, once or twice, and sleeps (R179). -/
theorem Appends.i2cRead (k : Nat) (e : List Byte) (h : Appends P s t) : Appends P s (i2cRead c k e t) := by
  refine h.busCall hc (fun a u hu => ?_)
  cases a with
  | error =>
    refine hu.sleepThen hsleep (fun v hv => hv.busCall hc (fun a2 x hx => ?_))
    cases a2 <;> exact hx
  | ok | protocolError => exact hu

end

/-! ### The events of an instruction on I²C -/

/-- A sleep, or a call of the instruction `i` in `s` whose bytes are swapped (R178). -/
def SwappedEvent (s : State) (i : Instr) (e : Event) : Prop :=
  (∃ ms, e = .sleep ms) ∨
    (∃ g p s0 a, Delivers s i g p s0 ∧ e = .bus (.i2cWrite s.cfg.i2cAddr (swap p)) a) ∨
    (∃ k c x a, Reads i k c x ∧ e = .bus (.i2cWriteRead s.cfg.i2cAddr (swap c.bytes) k) a)

section

variable {s t : State} {i : Instr}

theorem swappedEvent_sleep (ms : Nat) : SwappedEvent s i (.sleep ms) := .inl ⟨ms, rfl⟩

theorem appends_of_delivers (hb : s.bus = .i2c) {g : Bool} {p : List Byte} {s0 : State} (hd : Delivers s i g p s0)
    (he : exec i s = .next t) : Appends (SwappedEvent s i) s t := by
  have hcall (a : Answer) : SwappedEvent s i (.bus (.i2cWrite s.cfg.i2cAddr (swap p)) a) :=
    .inr (.inl ⟨g, p, s0, a, hd, rfl⟩)
  rw [exec_of_delivers hd] at he
  obtain ⟨n, rfl⟩ := delivers_drew hd
  cases he
  rw [deliver_i2c (s := s.drew n) hb]
  exact Appends.i2cWrite swappedEvent_sleep hcall (.of_trace_eq rfl)

theorem appends_of_reads (hb : s.bus = .i2c) {k : Nat} {c : ReadCommand} {e : List Byte} (hr : Reads i k c e)
    (he : exec i s = .next t) : Appends (SwappedEvent s i) s t := by
  have hcall (a : Answer) : SwappedEvent s i (.bus (.i2cWriteRead s.cfg.i2cAddr (swap c.bytes) k) a) :=
    .inr (.inr ⟨k, c, e, a, hr, rfl⟩)
  rw [exec_of_reads hr] at he
  cases he
  rw [readCompare_i2c hb]
  exact Appends.i2cRead swappedEvent_sleep hcall k e (.of_trace_eq rfl)

/-- What an S_DCS_LENGTH that does not stop has passed (R232, R235). -/
theorem sendLength_limits {g : Bool} {p : List Byte} (h : sendLength g p s = .next t) :
    p ≠ [] ∧ (s.bus = .spi ∨ p.length ≤ s.par.maxDataPayload) := by
  unfold sendLength at h
  split at h
  · cases h
  · next hne =>
    split at h
    · cases h
    · next hlim => exact ⟨by simpa using hne, by simpa [or_iff_not_imp_left] using hlim⟩

/-- What an S_DCS_BUF that does not stop has passed (R240). -/
theorem sendBuf_limits {g : Bool} {l : Byte} (h : sendBuf g l s = .next t) :
    1 ≤ l.toNat ∧ l.toNat ≤ s.par.dcsBufMax := by
  unfold sendBuf at h
  split at h
  · cases h
  · split at h
    · cases h
    · omega

/-- On I²C an instruction appends sleeps and swapped calls, by its kind. -/
theorem appends_swappedEvent (hwf : i.wellFormed = true) (hb : s.bus = .i2c) (he : exec i s = .next t) :
    Appends (SwappedEvent s i) s t := by
  cases i with
  | inlineDcs p => exact appends_of_delivers hb (.inlineDcs p hwf) he
  | inlineGeneric p => exact appends_of_delivers hb (.inlineGeneric p hwf) he
  | dcsLength p =>
    obtain ⟨hne, hlim⟩ := sendLength_limits he
    exact appends_of_delivers hb (.dcsLength p hne hlim) he
  | dcsLengthG p =>
    obtain ⟨hne, hlim⟩ := sendLength_limits he
    exact appends_of_delivers hb (.dcsLengthG p hne hlim) he
  | dcsBuf l =>
    obtain ⟨hpos, hmax⟩ := sendBuf_limits he
    exact appends_of_delivers hb (.dcsBuf l hpos hmax) he
  | dcsBufG l =>
    obtain ⟨hpos, hmax⟩ := sendBuf_limits he
    exact appends_of_delivers hb (.dcsBufG l hpos hmax) he
  | delay x ms =>
    cases he
    rw [if_neg (by simp [hb])]
    exact Appends.sleepThen (.of_trace_eq rfl) swappedEvent_sleep (fun _ hu => hu)
  | mrps x n =>
    cases he
    rw [if_neg (by simp [hb])]
    exact .of_trace_eq rfl
  | dcsRead1 | dcsRead2 | dcsRead3 | dcsRead4 | dcsRead5 | dcsRead6 | dcsRead7 | dcsRead8 | dcsRead1G | dcsRead2G
  | dcsRead3G | dcsRead4G | dcsRead5G | dcsRead6G | dcsRead7G | dcsRead8G =>
    exact appends_of_reads hb (by constructor; exact length_of_expectOk hwf) he
  | if1Lane | if2Lanes | if3Lanes | if4Lanes =>
    cases he
    exact .of_trace_eq rfl
  | constField | hsync | hbp | hactive | hfp | vsync | vbp | vactive | vfp =>
    cases he
    exact .of_trace_eq (samePending_cmdWrite _ _ _ _ _).1

end

/-- Settles O20: the swap by its equations, the events by the kind of the instruction. -/
theorem i2cSwapsFirstTwoBytes : Obligations.I2cSwapsFirstTwoBytes := by
  refine ⟨fun p hp => ?_, fun a b tail => rfl, fun s t i evs e hwf hb he htrace hmem => ?_⟩
  · match p, hp with
    | [], _ => rfl
    | [_], _ => rfl
  · exact (appends_swappedEvent hwf hb he).mem htrace hmem

end Sys2Proof.Machine

/-! PROOFS. Transfers on SPI: the bytes sent when bits were put on the empty buffer, byte-mode data steps and reads, and the
errors of a transfer and of a first flush (O21, O26, O38, O40). -/

namespace Sys2Proof.Machine

/-! ### An answered transfer -/

section

variable {s : State} {n : Nat} {wantRx : Bool} {w : Wait} {k : State → State} {rest : List Answer}

/-- An SPI transfer answered with an error aborts: BusRead when it receives, else BusWrite (R182). -/
theorem spiTransfer_error {kind : ErrKind} (ha : s.answers = .error kind :: rest) :
    spiTransfer n wantRx w k s = State.abort { s with
        answers := rest
        trace := s.trace ++ [.bus (.spiTransfer (s.tx.readBytes 0 n) wantRx s.cfg.spiMaxHz) (.error kind)] }
      (.ebus kind) (if wantRx then .busRead else .busWrite) :=
  busCall_answered _ _ _ s _ _ ha (BusCall.allows_error _ kind)

/-- An SPI transfer that is answered goes on with CURSOR 0, what it received in RX from byte 0 (R182, R201). -/
theorem spiTransfer_ok {d : List Byte} (ha : s.answers = .ok d :: rest) (hd : d.length = if wantRx then n else 0) :
    spiTransfer n wantRx w k s = k { s with
      answers := rest
      trace := s.trace ++ [.bus (.spiTransfer (s.tx.readBytes 0 n) wantRx s.cfg.spiMaxHz) (.ok d)]
      rx := if wantRx then s.rx.writeBytes 0 d else s.rx
      cursor := 0 } := by
  have hallows : (BusCall.spiTransfer (s.tx.readBytes 0 n) wantRx s.cfg.spiMaxHz).allows (.ok d) = true := by
    cases wantRx <;> simpa [BusCall.allows] using hd
  exact busCall_answered _ _ _ s _ _ ha hallows

end

/-! ### The bytes a transfer sends -/

/-- TX after the bits `l` were put on the empty buffer of `s` and padded. -/
def sentTx (l : List Bool) (s : State) : Memory := (padded (putBits l s)).tx

/-- The bytes on the wire when the bits `l` are put on the empty buffer of `s` and flushed. -/
def sentBytes (l : List Bool) (s : State) : List Byte := (sentTx l s).readBytes 0 (ceilDiv (putBits l s).cursor 8)

section

variable {s : State}

/-- The bytes sent are the bits put, padded with ones (R201). -/
theorem wireBits_sentBytes (l : List Bool) (hc : s.cursor = 0) (hw : s.tx.wf = true) :
    wireBits (sentBytes l s) = padOnes l := by
  rw [sentBytes, sentTx, wireBits_padded _ (wf_tx_putBits l s hw), pendingBits_putBits_empty l hc hw]

/-- The bits of whole bytes are sent as those bytes (R202). -/
theorem sentBytes_wireBits (p : List Byte) (hc : s.cursor = 0) (hw : s.tx.wf = true) : sentBytes (wireBits p) s = p :=
  flushed_bytes p hc hw

theorem length_sentBytes (l : List Bool) (hc : s.cursor = 0) : (sentBytes l s).length = ceilDiv l.length 8 := by
  simp [sentBytes, hc]

/-- TX holds the bytes sent from byte 0, and is unchanged above them (R200, R201). -/
theorem read_sentTx (l : List Bool) (hc : s.cursor = 0) (hw : s.tx.wf = true) (a : Nat) :
    (sentTx l s).read a = if a < (sentBytes l s).length then (sentBytes l s).getD a 0 else s.tx.read a := by
  split
  · next ha =>
    rw [List.getD_eq_getElem _ _ ha]
    simp [sentBytes, Memory.getElem_readBytes]
  · next ha =>
    rw [length_sentBytes l hc] at ha
    simp only [ceilDiv] at ha
    have hpad : (padded (putBits l s)).tx.read a = (putBits l s).tx.read a := by
      refine read_tx_putBits _ _ a (wf_tx_putBits l s hw) (.inr ?_)
      simp only [List.length_replicate, putBits_cursor, hc, ceilDiv]
      omega
    rw [sentTx, hpad, read_tx_putBits l s a hw (.inr (by omega))]

/-- What putting bits and padding them changes (R200, R201). -/
theorem padded_putBits_eq (l : List Bool) (hc : s.cursor = 0) :
    padded (putBits l s) = { s with tx := sentTx l s, cursor := 8 * (sentBytes l s).length } := by
  have hcursor : (padded (putBits l s)).cursor = 8 * (sentBytes l s).length := by
    rw [padded_cursor, length_sentBytes l hc, putBits_cursor, hc, Nat.zero_add]
  rw [← hcursor, sentTx, padded, putBits_eq _ (putBits l s), putBits_eq l s]

/-- The bytes sent are the first bytes of TX. -/
theorem readBytes_sentTx (l : List Bool) (s : State) : (sentTx l s).readBytes 0 (sentBytes l s).length = sentBytes l s := by
  rw [sentBytes, Memory.length_readBytes]

variable {l : List Bool} {wantRx : Bool} {w : Wait} {k : State → State} {rest : List Answer}

/-- The flush of bits put on the empty buffer is the transfer of the bytes sent (R201). -/
theorem flush_putBits (hl : l ≠ []) (hc : s.cursor = 0) :
    flush wantRx w k (putBits l s) = spiTransfer (sentBytes l s).length wantRx w k
      { s with tx := sentTx l s, cursor := 8 * (sentBytes l s).length } := by
  have hpos : (putBits l s).cursor ≠ 0 := by simpa [hc] using hl
  rw [← padded_putBits_eq l hc, sentBytes, Memory.length_readBytes, flush, if_neg hpos, padded]

/-- That transfer answered with an error aborts, with CURSOR at the end of the bytes sent (R182, R201). -/
theorem flush_putBits_error {kind : ErrKind} (hl : l ≠ []) (hc : s.cursor = 0) (ha : s.answers = .error kind :: rest) :
    flush wantRx w k (putBits l s) = { s with
      tx := sentTx l s, cursor := 8 * (sentBytes l s).length, answers := rest
      trace := s.trace ++ [.bus (.spiTransfer (sentBytes l s) wantRx s.cfg.spiMaxHz) (.error kind)]
      run := .aborted, result := some (.ebus kind)
      failure := some ⟨if wantRx then .busRead else .busWrite, s.stepAt⟩ } := by
  rw [flush_putBits hl hc, spiTransfer_error (by exact ha), readBytes_sentTx]
  rfl

/-- That transfer answered, when it receives nothing (R182, R201). -/
theorem flush_putBits_written (hl : l ≠ []) (hc : s.cursor = 0) (ha : s.answers = .ok [] :: rest) :
    flush false w k (putBits l s) = k { s with
      tx := sentTx l s, answers := rest
      trace := s.trace ++ [.bus (.spiTransfer (sentBytes l s) false s.cfg.spiMaxHz) (.ok [])] } := by
  rw [flush_putBits hl hc, spiTransfer_ok (by exact ha) rfl, readBytes_sentTx, ← hc]
  rfl

/-- That transfer answered, when it is full-duplex: as many bytes as were sent are in RX from byte 0 (R182, R201). -/
theorem flush_putBits_received {d : List Byte} (hl : l ≠ []) (hc : s.cursor = 0) (ha : s.answers = .ok d :: rest)
    (hd : d.length = (sentBytes l s).length) :
    flush true w k (putBits l s) = k { s with
      tx := sentTx l s, rx := s.rx.writeBytes 0 d, answers := rest
      trace := s.trace ++ [.bus (.spiTransfer (sentBytes l s) true s.cfg.spiMaxHz) (.ok d)] } := by
  rw [flush_putBits hl hc, spiTransfer_ok (by exact ha) hd, readBytes_sentTx, ← hc]
  rfl

end

theorem wireBits_ne_nil {p : List Byte} (h : 1 ≤ p.length) : wireBits p ≠ [] := by
  have hlen := length_wireBits p
  intro h0
  rw [h0, List.length_nil] at hlen
  omega

theorem ReadCommand.length_bytes_pos (c : ReadCommand) : 1 ≤ c.bytes.length := by cases c <;> simp [ReadCommand.bytes]

/-- A byte-mode read sends at least its command (R298). -/
theorem wireBits_readFrame_ne_nil (c : ReadCommand) (fill : List Byte) : wireBits (c.bytes ++ fill) ≠ [] := by
  have hpos := c.length_bytes_pos
  exact wireBits_ne_nil (by rw [List.length_append]; omega)

theorem nineBit_readFrame_ne_nil (c : ReadCommand) (ones : List Bool) : nineBit c.bytes ++ ones ≠ [] := by
  cases c <;> simp [ReadCommand.bytes, nineBit, nineBitWord]

/-! ### Data steps in byte mode -/

/-- Settles O21: the step is the flush of its payload's bits, answered or failing. -/
theorem spiByteModeDataSteps : Obligations.SpiByteModeDataSteps := by
  intro s s0 i g p rest hd hb h8 hc hlen hfit hw
  obtain ⟨n, rfl⟩ := delivers_drew hd
  have hne := wireBits_ne_nil hlen
  have hsent : sentBytes (wireBits p) (s.drew n) = p := sentBytes_wireBits p hc hw
  have htx := read_sentTx (s := s.drew n) (wireBits p) hc hw
  rw [hsent] at htx
  rw [exec_of_delivers hd, deliver_byteMode (s := s.drew n) hb h8 hc g hfit]
  refine ⟨fun ha => ⟨_, rfl, ?_⟩, fun kind ha => ⟨_, rfl, ?_⟩⟩
  · rw [flush_putBits_written (s := s.drew n) hne hc ha, hsent]
    exact ⟨rfl, htx⟩
  · rw [flush_putBits_error (s := s.drew n) hne hc ha, hsent]
    exact ⟨rfl, htx⟩

/-! ### A first flush that fails -/

/-- A flush that fails draws no free value. -/
theorem FlushFailed.draws {s t : State} {kind : ErrKind} (h : FlushFailed s t kind) : t.draws = s.draws := by
  obtain ⟨_, _, _, _, heq, _⟩ := h
  exact (congrArg State.draws heq :)

/-- Settles O26: a step that flushes first is that flush, which aborts. -/
theorem flushErrorAborts : Obligations.FlushErrorAborts := by
  intro s i kind rest hf hb hc hw ha
  obtain ⟨n, w, k, hexec⟩ := exec_of_flushesFirst hf hb
  have hfail := flush_error w k (s.drew n) kind rest hc ha hw
  refine ⟨_, hexec, ?_⟩
  rw [hfail.draws]
  exact hfail

/-! ### Reads -/

/-- Bytes written from address 0 and read back to their end, from address `a` on. -/
theorem Memory.readBytes_writeBytes_zero {m : Memory} {l : List Byte} {a n : Nat} (h : m.wf = true)
    (hl : l.length = a + n) : (m.writeBytes 0 l).readBytes a n = l.drop a := by
  refine List.ext_getElem (by simp [hl]) (fun i hi _ => ?_)
  rw [length_readBytes] at hi
  rw [Memory.getElem_readBytes, Memory.read_writeBytes_zero l _ h, if_pos (by omega),
    List.getD_eq_getElem _ _ (by omega), List.getElem_drop]

/-- Settles O38: one full-duplex transfer, and the comparison of what came after the command. -/
theorem spiByteReadsCompare : Obligations.SpiByteReadsCompare := by
  intro s i k c e d sent rest hr hb h8 hc hw hrxw hframe hd ha
  have hsent : sentBytes (wireBits sent) s = sent := sentBytes_wireBits sent hc hw
  have hne : wireBits sent ≠ [] := hframe ▸ wireBits_readFrame_ne_nil c _
  have htx := read_sentTx (wireBits sent) hc hw
  rw [hsent] at htx
  have hreply : d.length = c.bytes.length + k := by rw [hd, hframe]; simp
  have hdrop : (d.drop c.bytes.length).length = k := by rw [List.length_drop]; omega
  obtain ⟨he, -, hk⟩ := reads_bounds hr
  refine ⟨_, exec_of_reads hr s, ?_⟩
  rw [readCompare_spi hb, spiRead_byteMode h8 hc hk, ← hframe,
    flush_putBits_received hne hc ha (by rw [hsent, hd]), hsent, readReply8,
    Memory.readBytes_writeBytes_zero hrxw hreply]
  refine ⟨?_, htx, fun a => Memory.read_writeBytes_zero d a hrxw⟩
  simp only [recordMatch, equalLE_iff _ e k hdrop he]

/-- Settles O40: in each mode the read is the flush of its frame, which aborts. -/
theorem spiReadErrorAborts : Obligations.SpiReadErrorAborts := by
  intro s i k c e kind rest hr hb hc hdummy hw ha
  have hk := (reads_bounds hr).2.2
  have habove (l : List Bool) (a : Nat) (hle : (sentBytes l s).length ≤ a) : (sentTx l s).read a = s.tx.read a :=
    (read_sentTx l hc hw a).trans (if_neg (by omega))
  rw [exec_of_reads hr, readCompare_spi hb]
  cases hmode : s.cfg.spi9bit with
  | true =>
    rw [spiRead_nineBit hmode hc hdummy hk, flush_putBits_error (nineBit_readFrame_ne_nil c _) hc ha]
    exact ⟨_, _, rfl, by simp, fun _ => wireBits_sentBytes _ hc hw, rfl, habove _⟩
  | false =>
    rw [spiRead_byteMode hmode hc hk, flush_putBits_error (wireBits_readFrame_ne_nil c _) hc ha]
    exact ⟨_, _, rfl, fun _ => sentBytes_wireBits _ hc hw, by simp, rfl, habove _⟩

end Sys2Proof.Machine

/-! PROOFS. A block that nobody answers, wakes or asks stays as it is (O13). -/

namespace Sys2Proof.Machine

/-- A block that one step leaves as it is stays so for any number of steps. -/
theorem run_of_step_self {s : State} (h : step s = .next s) (n : Nat) : Host.Core.run Sys2Proof.core n s = .next s := by
  induction n with
  | zero => rfl
  | succ n ih => rw [run_succ_of_step h, ih]

/-! ### Resuming without an answer or a wake -/

/-- `s` as a waiting step goes on from it: Running, nothing outstanding (R46). -/
def State.resumed (s : State) : State := { s with run := .running, wait := none }

section

variable {s : State} {w : Wait}

/-- A step resumed at `w` that waits at `w` again is where it was. -/
theorem await_resumed {r : RunState} (hr : s.run = r) (hw : s.wait = some w) : s.resumed.await r w = s := by
  simp only [State.resumed, State.await, ← hr, ← hw]

theorem busCall_resumed (hr : s.run = .waitBus) (hw : s.wait = some w) (ha : s.answers = []) (c : BusCall)
    (k : Answer → State → State) : busCall c w k s.resumed = s := by
  rw [busCall_unanswered c w k s.resumed ha, await_resumed hr hw]

theorem awaitWake_resumed (hr : s.run = .waitSleep) (hw : s.wait = some w) (hn : s.wakes = 0) (k : State → State) :
    awaitWake w k s.resumed = s := by
  rw [awaitWake, show s.resumed.wakes = 0 from hn, await_resumed hr hw]

/-- Whole bytes are not padded (R201). -/
theorem padded_of_aligned (h : s.cursor % 8 = 0) : padded s = s := by
  have hnone : 8 * ceilDiv s.cursor 8 - s.cursor = 0 := by
    rw [pad_count, h]
  rw [padded, hnone]
  rfl

/-- An outstanding transfer made again, and not answered, is outstanding as it was (R186, R201; log 12). -/
theorem flush_resumed (ht : s.inTransfer) (hw : s.wait = some w) (ha : s.answers = []) (wantRx : Bool)
    (k : State → State) : flush wantRx w k s.resumed = s := by
  obtain ⟨-, hr, hc, haligned⟩ := ht
  have hpad : padded s.resumed = s.resumed := padded_of_aligned haligned
  rw [flush, if_neg (by exact hc), ← padded, hpad]
  exact busCall_resumed hr hw ha _ _

/-- A waiting step that is neither answered nor woken comes back to where it waits, whatever it waits at (R46, R186). -/
theorem resume_resumed (hfits : w.fits s) (hw : s.wait = some w) (hbus : s.run = .waitBus → s.answers = [])
    (hsleep : s.run = .waitSleep → s.wakes = 0) : resume w s.resumed = s := by
  cases w with
  | mipiWrite c => rw [resume, mipiWrite, busCall_resumed hfits.2 hw (hbus hfits.2)]
  | mipiRead c k e => rw [resume, mipiRead, busCall_resumed hfits.2.1 hw (hbus hfits.2.1)]
  | mipiReread c k e => rw [resume, mipiReread, busCall_resumed hfits.2.1 hw (hbus hfits.2.1)]
  | i2cWrite c => rw [resume, i2cWrite, busCall_resumed hfits.2 hw (hbus hfits.2)]
  | i2cRewrite c => rw [resume, i2cRewrite, busCall_resumed hfits.2 hw (hbus hfits.2)]
  | i2cRead c k e => rw [resume, i2cRead, busCall_resumed hfits.2.1 hw (hbus hfits.2.1)]
  | i2cReread c k e => rw [resume, i2cReread, busCall_resumed hfits.2.1 hw (hbus hfits.2.1)]
  | i2cWriteSleep c => exact awaitWake_resumed hfits.2 hw (hsleep hfits.2) _
  | i2cReadSleep c k e => exact awaitWake_resumed hfits.2.1 hw (hsleep hfits.2.1) _
  | delaySleep => exact awaitWake_resumed hfits.1 hw (hsleep hfits.1) _
  | byteWrite | delayFlush ms | finish => exact flush_resumed hfits hw (hbus hfits.2.1) _ _
  | readFlush c k e => exact flush_resumed hfits.1 hw (hbus hfits.1.2.1) _ _
  | readTransfer9 c k e | readTransfer8 c k e => exact flush_resumed hfits.1 hw (hbus hfits.1.2.1) _ _
  | readRoom c k e => exact hfits.elim
  | storeRoom p =>
    obtain ⟨ht, -, hfull⟩ := hfits
    show store9 p s.resumed = s
    rw [store9, checkRoom, if_pos (by exact hfull)]
    exact flush_resumed ht hw (hbus ht.2.1) _ _

/-- A waiting block takes a step of its resumption (R46). -/
theorem step_of_waiting (hrun : s.run = .waitBus ∨ s.run = .waitSleep) : step s = resumeStep s := by
  unfold step
  rcases hrun with h | h <;> rw [h]

theorem step_of_stalled (hinv : s.Inv)
    (h : (s.run = .waitBus ∧ s.answers = []) ∨ (s.run = .waitSleep ∧ s.wakes = 0)) : step s = .next s := by
  have hrun : s.run = .waitBus ∨ s.run = .waitSleep := h.imp And.left And.left
  have hbus : s.run = .waitBus → s.answers = [] := by
    intro hr
    rcases h with h | h
    · exact h.2
    · simp [hr] at h
  have hsleep : s.run = .waitSleep → s.wakes = 0 := by
    intro hr
    rcases h with h | h
    · simp [hr] at h
    · exact h.2
  obtain ⟨w, hw⟩ := Option.ne_none_iff_exists'.mp (hinv.waiting.mpr hrun)
  rw [step_of_waiting hrun, resumeStep, hw]
  exact congrArg Host.Outcome.next (resume_resumed (hinv.waitFits w hw) hw hbus hsleep)

end

/-- Settles O13: one step leaves such a block as it is, so any number does. -/
theorem stalledBlockStays : Obligations.StalledBlockStays := by
  refine ⟨fun s n hinv h => run_of_step_self (step_of_stalled hinv h) n, fun s n hrun ht hq => run_of_step_self ?_ n⟩
  rw [step_of_notRunning hrun, dispatcherStep, ht, hq]

end Sys2Proof.Machine

/-! PROOFS. The bit packer: payloads above the capacity in both modes, 9-bit data steps that fit, and the reply of a 9-bit
read (O22, O23, O24, O39). -/

namespace Sys2Proof.Machine

/-! ### Payloads above the capacity -/

section

variable {s : State} {p : List Byte}

/-- With nothing pending, a byte-mode store above the capacity aborts: `Unaligned` is not what it meets (R202). -/
theorem storeBytes_of_overflow (k : State → State) (hc : s.cursor = 0) (hover : 8 * p.length > txBits) :
    storeBytes p k s = s.abort .einval .overflow := by
  rw [storeBytes, hc, if_neg (by decide), if_pos (by omega)]

/-- With nothing pending, a 9-bit append above the capacity has nothing to flush and aborts (R204). -/
theorem store9_of_overflow (hc : s.cursor = 0) (hover : 9 * p.length > txBits) :
    store9 p s = s.abort .einval .overflow := by
  rw [store9, checkRoom, if_pos (by omega), flush_empty _ _ _ _ hc, afterRoom, if_pos hover]

/-- A 9-bit delivery is one append (R208). -/
theorem deliver_store9 (hb : s.bus = .spi) (h9 : s.cfg.spi9bit = true) (g : Bool) (p : List Byte) :
    deliver g p s = store9 p s := by
  rw [deliver_spi hb, spiDeliver, if_pos h9]

end

@[simp] theorem flushedState_stepAt (s : State) (rest : List Answer) : (flushedState s rest).stepAt = s.stepAt :=
  putBits_stepAt _ s

/-- Settles O22: the store overflows before a bit of it is put. -/
theorem spiByteModeOverflow : Obligations.SpiByteModeOverflow := by
  intro s s0 i g p hd hb h8 hc hover
  obtain ⟨n, rfl⟩ := delivers_drew hd
  rw [exec_of_delivers hd, deliver_spi (s := s.drew n) hb, spiDeliver, if_neg (by simp [h8]),
    storeBytes_of_overflow (s := s.drew n) _ hc hover]
  rfl

/-- Settles O24: the append overflows with nothing pending, at once or once the pending bits are flushed. -/
theorem nineBitOverflow : Obligations.NineBitOverflow := by
  intro s s0 i g p hd hb h9 hover hw
  obtain ⟨n, rfl⟩ := delivers_drew hd
  rw [exec_of_delivers hd, deliver_store9 (s := s.drew n) hb h9]
  refine ⟨fun hc => ?_, fun rest hc ha => ⟨_, flushed_flushedState (s.drew n) rest hw ha, ?_⟩⟩
  · rw [store9_of_overflow (s := s.drew n) hc hover]
    rfl
  · rw [store9_flushedState p (s := s.drew n) hc ha (by omega), store9_of_overflow rfl hover, State.abort,
      flushedState_stepAt]
    rfl

/-! ### Data steps that fit -/

/-- Settles O23: the step is its words, put behind the pending bits. -/
theorem nineBitDataStepsPack : Obligations.NineBitDataStepsPack := by
  intro s s0 i g p hd hb h9 hfit hw
  obtain ⟨n, rfl⟩ := delivers_drew hd
  refine ⟨_, exec_of_delivers hd, ?_⟩
  rw [deliver_nineBit (s := s.drew n) hb h9 g hfit]
  refine ⟨?_, pendingBits_putBits (nineBit p) (s.drew n) hw, fun a ha => ?_⟩
  · rw [putBits_eq, length_nineBit]
    rfl
  · exact read_tx_putBits (nineBit p) (s.drew n) a hw (by rwa [length_nineBit])

/-! ### The reply of a 9-bit read -/

/-- The bits of a byte sequence on the wire, by index (R11, R75). -/
theorem wireBits_eq_map_range (p : List Byte) :
    wireBits p = (List.range (8 * p.length)).map (fun b => (p.getD (b / 8) 0).getLsbD (7 - b % 8)) := by
  have hstored : (Memory.writeBytes [] 0 p).readBytes 0 p.length = p :=
    Memory.readBytes_writeBytes_zero Memory.wf_nil (Nat.zero_add _).symm
  conv_lhs => rw [← hstored, wireBits_readBytes]
  refine List.map_congr_left (fun b hb => ?_)
  rw [List.mem_range] at hb
  rw [Memory.read_writeBytes_zero p _ Memory.wf_nil, if_pos (by omega)]

@[simp] theorem length_extract (s : State) (n start : Nat) : (extract s n start).length = n := by simp [extract]

/-- The bits of extracted bytes are the received bits from the start on (R206). -/
theorem wireBits_extract (s : State) (k start : Nat) :
    wireBits (extract s k start) = (List.range (8 * k)).map (fun b => rxBit s (start + b)) := by
  rw [wireBits_eq_map_range, length_extract]
  refine List.map_congr_left (fun b hb => ?_)
  rw [List.mem_range] at hb
  rw [List.getD_eq_getElem _ _ (by rw [length_extract]; omega)]
  simp only [extract, List.getElem_map, List.getElem_range]
  rw [getLsbD_byteOf _ _ (by omega), show start + 8 * (b / 8) + (7 - (7 - b % 8)) = start + b by omega]

/-- A received bit, when the reply lies in RX from byte 0 (R41, R206). -/
theorem rxBit_received {s : State} {d : List Byte} (hrx : ∀ a, a < d.length → s.rx.read a = d.getD a 0) {b : Nat}
    (hb : b < 8 * d.length) : rxBit s b = (d.getD (b / 8) 0).getLsbD (7 - b % 8) := by
  rw [rxBit, hrx _ (by omega)]

/-- The bytes extracted from a reply are the slice of its bits they are taken from (R206). -/
theorem wireBits_extract_received {s : State} {d : List Byte} (hrx : ∀ a, a < d.length → s.rx.read a = d.getD a 0)
    {k start : Nat} (hfit : start + 8 * k ≤ 8 * d.length) :
    wireBits (extract s k start) = ((wireBits d).drop start).take (8 * k) := by
  rw [wireBits_extract, wireBits_eq_map_range d]
  refine List.ext_getElem (by simp; omega) (fun b hb _ => ?_)
  simp only [List.length_map, List.length_range] at hb
  simp only [List.getElem_take, List.getElem_drop, List.getElem_map, List.getElem_range]
  exact rxBit_received hrx (by omega)

theorem wireBits_inj_iff {p q : List Byte} : wireBits p = wireBits q ↔ p = q := ⟨wireBits_inj p q, congrArg wireBits⟩

/-- The comparison of a 9-bit reply is one of its slice with the expected bits: MATCH stays only when they are the same
(R292, R298). -/
theorem readReply9_eq {s : State} {d e : List Byte} {k : Nat} (c : ReadCommand)
    (hrx : ∀ a, a < d.length → s.rx.read a = d.getD a 0) (he : e.length = k)
    (hfit : 9 * c.bytes.length + s.par.spiReadDummyBits + 8 * k ≤ 8 * d.length) :
    readReply9 c k e s = { s with
      matchSt :=
        if ((wireBits d).drop (9 * c.bytes.length + s.par.spiReadDummyBits)).take (8 * k) = wireBits e then s.matchSt
        else .mismatch } := by
  rw [← wireBits_extract_received hrx hfit]
  simp only [readReply9, recordMatch, equalLE_iff _ e k (length_extract s k _) he, wireBits_inj_iff]

/-- Settles O39: one full-duplex transfer, and the comparison of the bits after the command and the turnaround. -/
theorem spiNineBitReadsCompare : Obligations.SpiNineBitReadsCompare := by
  intro s i k c e d rest hr hb h9 hc hdummy hw hrxw hd ha
  obtain ⟨he, -, hk⟩ := reads_bounds hr
  have hsent : d.length =
      (sentBytes (nineBit c.bytes ++ List.replicate (s.par.spiReadDummyBits + 8 * k) true) s).length := by
    rw [length_sentBytes _ hc, hd]
    simp [Nat.add_assoc]
  have hrx (a : Nat) := Memory.read_writeBytes_zero d a hrxw
  have hfit : 9 * c.bytes.length + s.par.spiReadDummyBits + 8 * k ≤ 8 * d.length := by
    rw [hd]
    unfold ceilDiv
    omega
  refine ⟨_, _, exec_of_reads hr s, wireBits_sentBytes _ hc hw, ?_⟩
  rw [readCompare_spi hb, spiRead_nineBit h9 hc hdummy hk,
    flush_putBits_received (nineBit_readFrame_ne_nil c _) hc ha hsent, readReply9_eq (d := d) c ?stored he ?fits]
  case stored => exact fun a hlt => (hrx a).trans (if_pos hlt)
  case fits => exact hfit
  exact ⟨rfl, fun a hle => (read_sentTx _ hc hw a).trans (if_neg (by omega)), hrx⟩

end Sys2Proof.Machine

/-! PROOFS. A lane filter on its own: no match, and match (O33). -/

namespace Sys2Proof.Machine

theorem laneSkip_of_ne {s : State} {k : Nat} (hk : s.cfg.dsiLanes ≠ k) : laneSkip k s = { s with skip := true } := by
  rw [laneSkip, if_neg hk]

/-- A match does not clear SKIP either (R266, R267). -/
theorem laneSkip_of_eq {s : State} {k : Nat} (hk : s.cfg.dsiLanes = k) : laneSkip k s = s := by
  rw [laneSkip, if_pos hk]

/-- Settles O33: each of the four filters is `laneSkip` at its lane count, which has the two cases. -/
theorem laneFilterSetsSkip : Obligations.LaneFilterSetsSkip := by
  intro s i k hf
  rw [exec_of_filters hf s]
  exact ⟨fun hne => congrArg Host.Outcome.next (laneSkip_of_ne hne),
    fun heq => congrArg Host.Outcome.next (laneSkip_of_eq heq)⟩

end Sys2Proof.Machine

/-! PROOFS. The little-endian comparison of a read: its values, and its bytes (O41). -/

namespace Sys2Proof.Machine

/-- On lists of `k` bytes the comparison cuts nothing off: it compares the two whole values (R292). -/
theorem equalLE_eq_decide {d e : List Byte} {k : Nat} (hd : d.length = k) (he : e.length = k) :
    equalLE d e k = decide (leValue d = leValue e) := by
  rw [Bool.eq_iff_iff, decide_eq_true_iff, equalLE_iff d e k hd he, leValue_inj d e (hd.trans he.symm)]

/-- Within the common length the byte `getD` falls back to is never read. -/
theorem eq_iff_forall_getD {d e : List Byte} {k : Nat} (hd : d.length = k) (he : e.length = k) :
    d = e ↔ ∀ i, i < k → d.getD i 0 = e.getD i 0 := by
  constructor
  · rintro rfl i -
    rfl
  · intro h
    refine List.ext_getElem (hd.trans he.symm) (fun i hid hie => ?_)
    rw [← List.getD_eq_getElem d 0 hid, ← List.getD_eq_getElem e 0 hie]
    exact h i (hd ▸ hid)

/-- Settles O41: little-endian values of one length determine their bytes (`leValue_inj`, by induction on the bytes). -/
theorem comparisonIsBytewise : Obligations.ComparisonIsBytewise :=
  fun d e k hd he =>
    ⟨equalLE_eq_decide hd he, (equalLE_iff d e k hd he).trans (eq_iff_forall_getD hd he)⟩

end Sys2Proof.Machine

/-! PROOFS. The timing steps: an ordered difference (O43) and an unordered one (O44). -/

namespace Sys2Proof.Machine

/-- A free value drawn before a substitution is seen in the count of draws only, which a written field leaves open (log 8). -/
theorem FieldWritten.of_drew {s t : State} {n ds len : Nat} {f : Nat → Bool} (h : FieldWritten (s.drew n) t ds len f) :
    FieldWritten s t ds len f := h

/-- Whatever the order of its two geometry fields, a timing step writes the source bits of its value (R322, R324, R328). -/
theorem exec_timing_fieldWritten {s : State} {i : Instr} {ds dl ss : Byte} {hi lo : Word}
    (h : TimingStep s.cfg.timing i ds dl ss hi lo) (hw : s.cmd.wf = true) :
    ∃ t, exec i s = .next t ∧ FieldWritten s t ds.toNat (fieldLen ds dl)
      (fun j => srcBit (timingDiff hi lo s.draws) ss.toNat j (s.draws + 1)) :=
  ⟨_, exec_of_timing h, (cmdWrite_field ds dl _ ss.toNat (s.drew 1) hw).of_drew⟩

/-- A difference that is not negative is exact: the subtraction of words does not wrap (R322). -/
theorem toNat_timingDiff_of_le {hi lo : Word} (h : lo.toNat ≤ hi.toNat) (n : Nat) :
    (timingDiff hi lo n).toNat = hi.toNat - lo.toNat := by
  rw [timingDiff, if_pos h, BitVec.toNat_sub_of_le (BitVec.le_def.mpr h)]

/-- Below source bit 32 a field bit is the value's own bit (R323). -/
theorem srcBit_eq_testBit {ss j : Nat} (h : ss + j < 32) (val : Word) (n : Nat) :
    srcBit val ss j n = val.toNat.testBit (ss + j) := by
  rw [srcBit, if_pos h, BitVec.testBit_toNat]

/-- Settles O43: the field holds the source bits of the step's value, and that value is the exact difference. -/
theorem timingStepsWriteField : Obligations.TimingStepsWriteField := by
  intro s i ds dl ss hi lo hstep hle hw
  obtain ⟨t, hexec, hfield⟩ := exec_timing_fieldWritten hstep hw
  refine ⟨t, _, hexec, hfield, fun j hj => ?_⟩
  rw [srcBit_eq_testBit hj, toNat_timingDiff_of_le hle]

/-- Settles O44: the write does not ask whether the difference was negative; only the value's bits are then free. -/
theorem unorderedTimingWritesFreeField : Obligations.UnorderedTimingWritesFreeField := by
  intro s i ds dl ss hi lo hstep _ hw
  obtain ⟨t, hexec, hfield⟩ := exec_timing_fieldWritten hstep hw
  exact ⟨t, _, hexec, hfield⟩

end Sys2Proof.Machine

/-! PROOFS. What a triple does with a stream's result (O50), what the lifecycle does with a triple's (O54), what the transitions
do (O52, O53), and the requests that create or start nothing (O56). -/

namespace Sys2Proof.Machine

/-! ### A stream that has ended -/

/-- A block whose program has ended goes on with its triple (R351). -/
theorem step_of_triple {s : State} {t : Triple} (hrun : s.run = .idle ∨ s.run = .done ∨ s.run = .aborted)
    (ht : s.triple = some t) : step s = .next (streamEnded t s) := by
  rw [step_of_notRunning hrun, dispatcherStep, ht]

/-- An error is returned at once (R352). -/
theorem streamEnded_error {s : State} {r : Result} (t : Triple) (hres : s.result = some r)
    (hr : r = .einval ∨ ∃ kind, r = .ebus kind) : streamEnded t s = tripleReturn t.caller r s := by
  rcases hr with rfl | ⟨kind, rfl⟩ <;> rw [streamEnded, hres]

/-- A mismatch is returned at once when TRIPLE_STOP_ON_MISMATCH is true (R352). -/
theorem streamEnded_mismatch_stop {s : State} (t : Triple) (hres : s.result = some .mismatch)
    (hstop : s.par.tripleStopOnMismatch = true) : streamEnded t s = tripleReturn t.caller .mismatch s := by
  rw [streamEnded, hres]
  exact if_pos hstop

/-- A mismatch is remembered when TRIPLE_STOP_ON_MISMATCH is false (R352). -/
theorem streamEnded_mismatch_remember {s : State} (t : Triple) (hres : s.result = some .mismatch)
    (hstop : s.par.tripleStopOnMismatch = false) :
    streamEnded t s = advanceTriple { t with seenMismatch := true } s := by
  rw [streamEnded, hres]
  exact if_neg (by simp [hstop])

/-- A mismatch of the last present stream is returned whatever the parameter says (R352). -/
theorem streamEnded_mismatch_last {s : State} {t : Triple} (hres : s.result = some .mismatch)
    (hrest : ∀ x ∈ t.rest, hasBus s.cfg x = false) : streamEnded t s = tripleReturn t.caller .mismatch s := by
  cases hstop : s.par.tripleStopOnMismatch with
  | true => exact streamEnded_mismatch_stop t hres hstop
  | false =>
    rw [streamEnded_mismatch_remember t hres hstop,
      advanceTriple_absent (t := { t with seenMismatch := true }) hrest, if_pos rfl]

/-- Settles O50: the result of the stream that ended decides between a return and the next present stream. -/
theorem tripleShortCircuits : Obligations.TripleShortCircuits := by
  intro s n rest m c r hrun hres ht
  rw [step_of_triple (.inr hrun) ht]
  refine ⟨?error, ?stop, ?last, ?goOn⟩
  case error =>
    rintro rfl hr
    rw [streamEnded_error _ hres hr]
    rfl
  case stop =>
    rintro rfl rfl hstop
    rw [streamEnded_mismatch_stop _ hres hstop]
    rfl
  case last =>
    rintro rfl rfl _ hrest
    rw [streamEnded_mismatch_last hres hrest]
    rfl
  case goOn =>
    rintro pre b later rfl hstop rfl hpre hb
    rw [streamEnded_mismatch_remember _ hres hstop, advanceTriple_present rfl hpre hb]
    rfl

/-! ### A triple that has ended -/

/-- What a failed prepare does: its flag stays (R360, R361). -/
theorem afterTriple_prepare_failed {r : Result} (hr : r ≠ .ok) (s : State) :
    afterTriple .prepare r s = s.act [.disableRegulator, .propagate r] := by
  cases r with
  | ok => exact absurd rfl hr
  | mismatch | einval | ebus _ | edefer => rfl

/-- What a failed enable does: its flag stays (R360, R361). -/
theorem afterTriple_enable_failed {r : Result} (hr : r ≠ .ok) (s : State) :
    afterTriple .enable r s = s.act [.assertReset, .deassertPrepareEnable, .propagate r] := by
  cases r with
  | ok => exact absurd rfl hr
  | mismatch | einval | ebus _ | edefer => rfl

/-- What a failed disable does: its flag is cleared all the same (R360, D35). -/
theorem afterTriple_disable_failed {r : Result} (hr : r ≠ .ok) (s : State) :
    afterTriple .disable r s = State.act { s with enabled := false } [.logFailure r] := by
  cases r with
  | ok => exact absurd rfl hr
  | mismatch | einval | ebus _ | edefer => rfl

/-- Settles O54: a triple returns OK or fails, and the caller's arm of `afterTriple` is what follows. -/
theorem lifecycleOutcomes : Obligations.LifecycleOutcomes := by
  intro s n rest m c ht
  constructor
  · rintro hrun hres rfl hrest
    rw [step_streamOk hrun hres ht, advanceTriple_absent hrest]
    exact ⟨by rintro rfl; rfl, by rintro rfl; rfl, by rintro rfl; rfl⟩
  · intro r hfail
    have hstep : r ≠ .ok ∧ step s = .next (tripleReturn c r s) := by
      rcases hfail with ⟨hrun, hres, hr⟩ | ⟨hrun, rfl, hres, hstop⟩ | ⟨hrun, rfl, hrest, ⟨hres, _⟩ | ⟨hres, rfl⟩⟩
      · refine ⟨?_, by rw [step_of_triple (.inr (.inr hrun)) ht, streamEnded_error _ hres hr]⟩
        rcases hr with rfl | ⟨kind, rfl⟩ <;> exact Result.noConfusion
      · exact ⟨Result.noConfusion,
          by rw [step_of_triple (.inr (.inl hrun)) ht, streamEnded_mismatch_stop _ hres hstop]⟩
      · exact ⟨Result.noConfusion, by rw [step_of_triple (.inr (.inl hrun)) ht, streamEnded_mismatch_last hres hrest]⟩
      · exact ⟨Result.noConfusion, by rw [step_streamOk hrun hres ht, advanceTriple_absent hrest, if_pos rfl]⟩
    obtain ⟨hr, hstep⟩ := hstep
    rw [hstep, tripleReturn]
    refine ⟨?_, ?_, ?_⟩ <;> rintro rfl
    · rw [afterTriple_prepare_failed hr]; rfl
    · rw [afterTriple_enable_failed hr]; rfl
    · rw [afterTriple_disable_failed hr]; rfl

/-! ### The six transitions -/

/-- A transition the host asks of a bound block (R360, R362). -/
theorem step_transition {s : State} {t : Transition} {qs : List Request}
    (hrun : s.run = .idle ∨ s.run = .done ∨ s.run = .aborted) (ht : s.triple = none) (hbound : s.bound = true)
    (hq : s.requests = .transition t :: qs) : step s = .next (transition t { s with requests := qs }) := by
  rw [step_of_request hrun ht hq, serve, if_pos (by exact hbound)]

/-- A transition whose flag already has the target value does nothing (R361). -/
theorem transition_of_flag {s : State} {t : Transition}
    (h : (t = .prepare ∧ s.prepared = true) ∨ (t = .enable ∧ s.enabled = true) ∨
      (t = .unprepare ∧ s.prepared = false) ∨ (t = .disable ∧ s.enabled = false)) : transition t s = s := by
  rcases h with ⟨rfl, hf⟩ | ⟨rfl, hf⟩ | ⟨rfl, hf⟩ | ⟨rfl, hf⟩
  · rw [transition, if_pos hf]
  · rw [transition, if_pos hf]
  · rw [transition, if_neg (by simp [hf])]
  · rw [transition, if_neg (by simp [hf])]

/-- Settles O52: the request is served, and the transition is a no-op. -/
theorem lifecycleIdempotent : Obligations.LifecycleIdempotent := by
  intro s t qs hrun ht hbound hq hflag
  rw [step_transition hrun ht hbound hq, transition_of_flag (s := { s with requests := qs }) hflag]

theorem State.act_nil (s : State) : s.act [] = s := by
  rw [State.act, List.append_nil]

/-- A transition that runs a triple starts it after its own actions (R360). -/
theorem transition_of_starts {s : State} {t : Transition} {c : Caller} {n : ProgName} {acts : List HostAct}
    (h : Starts s t c n acts) : transition t s = startTriple c n (s.act acts) := by
  cases h with
  | prepare hf => rw [transition, if_neg (by simp [hf])]
  | enable hf => rw [transition, if_neg (by simp [hf]), State.act_nil]
  | disable hf => rw [transition, if_pos hf]

/-- The requests still to come do not matter to which transition runs a triple. -/
theorem Starts.withRequests {s : State} {t : Transition} {c : Caller} {n : ProgName} {acts : List HostAct}
    (h : Starts s t c n acts) (qs : List Request) : Starts { s with requests := qs } t c n acts := by
  cases h with
  | prepare hf => exact .prepare hf
  | enable hf => exact .enable hf
  | disable hf => exact .disable hf

/-- A triple begins with the first bus whose adapter is present (R351, R184, R411). -/
theorem startTriple_present {s : State} {pre rest : List Bus} {b : Bus} (c : Caller) (n : ProgName)
    (hsplit : [Bus.i2c, .mipi, .spi] = pre ++ b :: rest) (hpre : ∀ x ∈ pre, hasBus s.cfg x = false)
    (hb : hasBus s.cfg b = true) :
    startTriple c n s = State.programEntry { s with triple := some ⟨n, rest, false, c⟩ } n b :=
  advanceTriple_present hsplit hpre hb

/-- With no adapter present a triple returns OK at once (R351, R184). -/
theorem startTriple_absent {s : State} (c : Caller) (n : ProgName) (hall : ∀ b, hasBus s.cfg b = false) :
    startTriple c n s = tripleReturn c .ok s :=
  advanceTriple_absent fun x _ => hall x

/-- What follows a triple that returned OK, by its transition: the actions and the flags (R360, R361). -/
theorem tripleReturn_ok_of_starts {s u : State} {t : Transition} {c : Caller} {n : ProgName} {acts : List HostAct}
    (h : Starts s t c n acts) :
    tripleReturn c .ok u = { u with
      triple := none, reply := some .ok
      hostLog := u.hostLog ++ (if t = .enable then [.wait u.cfg.delays.enable, .unblankBacklight] else [])
      prepared := if t = .prepare then true else u.prepared
      enabled := if t = .enable then true else if t = .disable then false else u.enabled } := by
  cases h with
  | prepare | disable => simp [tripleReturn, afterTriple]
  | enable => rfl

/-- Settles O53: three transitions are actions alone; the others are their actions and a triple begun at I²C. -/
theorem transitionsAct : Obligations.TransitionsAct := by
  intro s t qs hrun ht hbound hq
  rw [step_transition hrun ht hbound hq]
  refine ⟨?powerUp, ?powerDown, ?unprepare, fun c n acts hstarts => ?triple⟩
  case powerUp => rintro rfl; rfl
  case powerDown => rintro rfl; rfl
  case unprepare =>
    rintro rfl hf
    rw [transition, if_pos (by exact hf)]
    rfl
  case triple =>
    rw [transition_of_starts (hstarts.withRequests qs)]
    constructor
    · intro pre b rest hsplit hpre hb
      rw [startTriple_present c n hsplit (by exact hpre) (by exact hb)]
      rfl
    · intro hall
      rw [startTriple_absent c n (by exact hall), tripleReturn_ok_of_starts hstarts, ← ht]
      rfl

/-! ### Unbind, and the requests that are refused -/

/-- Settles O56: an unbind and a second bind by the flag `bound`; on an unbound block, request by request. -/
theorem unbindAndForbiddenRequests : Obligations.UnbindAndForbiddenRequests := by
  intro s q qs hrun ht hq
  rw [step_of_request hrun ht hq]
  refine ⟨?unbind, ?secondBind, fun hbound hnotBind => ?unbound⟩
  case unbind =>
    rintro hbound rfl
    rw [serve, if_pos (by exact hbound)]
    rfl
  case secondBind =>
    rintro hbound ⟨c, p, a, rfl⟩
    rw [serve, if_pos (by exact hbound)]
  case unbound =>
    have hnot : ¬ s.bound = true := by simp [hbound]
    cases q with
    | bind c p a => exact absurd rfl (hnotBind c p a)
    | unbind => rw [serve, if_neg hnot]
    | runTriple name => rw [serve, if_neg hnot]
    | transition t => rw [serve, if_neg hnot]

end Sys2Proof.Machine

/-! PROOFS. What faults (O27): only the steps with a length limit, each by its own checks in their order; and the values at
creation (O58). -/

namespace Sys2Proof.Machine

/-! ### The two length limits -/

/-- When the limits of S_DCS_LENGTH stop it: zero before too long, and no limit on SPI (R232, R235). -/
theorem sendLength_eq_fault_iff (g : Bool) (p : List Byte) (s : State) (f : Fault) :
    sendLength g p s = .fault f ↔
      (f = .zeroLength ∧ p = []) ∨
      (f = .payloadTooLong ∧ s.bus ≠ .spi ∧ p ≠ [] ∧ p.length > s.par.maxDataPayload) := by
  unfold sendLength
  by_cases hempty : p = []
  · simp [hempty, eq_comm]
  · rw [if_neg (by simpa using hempty)]
    by_cases hlong : s.bus ≠ .spi ∧ p.length > s.par.maxDataPayload
    · rw [if_pos hlong]
      simp [hempty, hlong.1, hlong.2, eq_comm]
    · rw [if_neg hlong]
      simp only [reduceCtorEq, hempty, and_false, false_or, false_iff]
      rintro ⟨-, hbus, -, hlen⟩
      exact hlong ⟨hbus, hlen⟩

/-- When the limits of S_DCS_BUF stop it: zero before too long, on every bus (R240). -/
theorem sendBuf_eq_fault_iff (g : Bool) (l : Byte) (s : State) (f : Fault) :
    sendBuf g l s = .fault f ↔
      (f = .zeroLength ∧ l = 0) ∨ (f = .dcsBufTooLong ∧ l ≠ 0 ∧ l.toNat > s.par.dcsBufMax) := by
  unfold sendBuf
  by_cases hzero : l = 0#8
  · simp [hzero, eq_comm]
  · rw [if_neg (by simpa [BitVec.toNat_eq] using hzero)]
    by_cases hlong : l.toNat > s.par.dcsBufMax
    · rw [if_pos hlong]
      simp [hzero, hlong, eq_comm (a := f)]
    · rw [if_neg hlong]
      simp [hzero, hlong]

theorem sendLength_ne_refused (g : Bool) (p : List Byte) (s : State) (r : Refusal) :
    sendLength g p s ≠ .refused r := by
  unfold sendLength
  split
  · nofun
  · split <;> nofun

theorem sendBuf_ne_refused (g : Bool) (l : Byte) (s : State) (r : Refusal) : sendBuf g l s ≠ .refused r := by
  unfold sendBuf
  split
  · nofun
  · split <;> nofun

/-! ### What faults -/

/-- The four steps whose length the sequencer checks (R232, R235, R240). -/
def checksLength : Instr → Bool
  | .dcsLength _ | .dcsLengthG _ | .dcsBuf _ | .dcsBufG _ => true
  | _ => false

/-- Every step without a length to check has a next state, whatever the state. -/
theorem exec_eq_next_of_not_checksLength {i : Instr} (h : checksLength i = false) (s : State) :
    ∃ t, exec i s = .next t := by
  cases i with
  | dcsLength | dcsLengthG | dcsBuf | dcsBufG => contradiction
  | _ => exact ⟨_, rfl⟩

/-- Settles O27: the four steps that check a length fault by their limits; every other step has a next state. -/
theorem onlyUnspecifiedLengthsFault : Obligations.OnlyUnspecifiedLengthsFault := by
  intro s i
  by_cases hchecks : checksLength i = true
  case pos =>
    cases i with
    | dcsLength p | dcsLengthG p =>
      exact ⟨fun f => (sendLength_eq_fault_iff _ p s f).trans (by simp), sendLength_ne_refused _ p s⟩
    | dcsBuf l | dcsBufG l =>
      exact ⟨fun f => (sendBuf_eq_fault_iff _ l s f).trans (by simp), sendBuf_ne_refused _ l s⟩
    | _ => contradiction
  case neg =>
    obtain ⟨t, ht⟩ := exec_eq_next_of_not_checksLength (by simpa using hchecks) s
    rw [ht]
    refine ⟨fun f => ⟨nofun, ?_⟩, nofun⟩
    rintro (⟨-, rfl | rfl | rfl | rfl⟩ | ⟨-, -, p, -, -, rfl | rfl⟩ | ⟨-, l, -, -, rfl | rfl⟩) <;>
      exact absurd rfl hchecks

/-! ### Creation -/

/-- At creation no bit of CMD is written, whatever the host supplies (R410). -/
@[simp] theorem create_cmdw_getLsbD (c : Cfg) (p : Params) (b : Nat) :
    (State.create c p).cmdw.getLsbD b = false :=
  BitVec.getLsbD_zero

/-- Settles O58: reset is a creation, which gives each of these fields its value. -/
theorem resetValues : Obligations.ResetValues :=
  ⟨rfl, rfl, rfl, create_cmdw_getLsbD blankCfg defaultParams, rfl, rfl, rfl⟩

end Sys2Proof.Machine
